-- ==== Sys2Proof/Word.lean ====
section
/-! DEFINITION. The bit patterns of the block: command words, phase codes and IEEE 754 interchange words
(spec 00_scope.md R13, 10_state.md R30, 30_encoding.md R81). Every other quantity is a natural number (R16). -/

namespace Sys2Proof

/-- A host command word `cw` (30_encoding.md R81). -/
abbrev CmdWord := BitVec 32

/-- A value of the phase register `PH` (10_state.md R30, R31). -/
abbrev PhaseCode := BitVec 3

/-- A binary32 pattern: a pool sample or an output sample (00_scope.md R13). -/
abbrev F32 := BitVec 32

/-- The weight format: a 64-bit pattern, binary64 under `REF64` (10_state.md R30).
DESIGN CHOICE (log 6): the spec leaves the format of another `NUM` open; the model gives it 64 bits. -/
abbrev Weight := BitVec 64

end Sys2Proof
end

