-- ==== Sys2Proof/Syntax.lean ====
section
/-! DEFINITION. The operations of the block: the one host command and the five micro-operations
(spec 30_encoding.md R80, opcode_table.json: one constructor per row). -/

namespace Sys2Proof

/-- An operation of the block (30_encoding.md R80). -/
inductive Instr where
  /-- `FILL count`, the host command (40_fill_command.md R102, R103). -/
  | fill (count : Nat)
  /-- `BSET`, batch set-up (41_batch_sequencer.md R122). -/
  | bset
  /-- `MIX`, one output sample or the exit from the batch (41_batch_sequencer.md R125). -/
  | mix
  /-- `ADV`, advance both cursors (41_batch_sequencer.md R130). -/
  | adv
  /-- `RS0`, boundary test and reseed of cursor 0 (42_reseed.md R141). -/
  | rs0
  /-- `RS1`, the same of cursor 1, and the loop decision (42_reseed.md R143). -/
  | rs1
deriving DecidableEq, Repr

end Sys2Proof
end

