-- ==== Sys2Proof/WellFormed.lean ====
section
/-! DEFINITION. Which operations the encodings can express (spec 30_encoding.md R82, R86). -/

namespace Sys2Proof

/-- The one check there is: a count fits the 28 bits of `COUNT` (30_encoding.md R82). The micro-operations have no
operand field (R86). -/
def Instr.wf : Instr → Bool
  | .fill count => decide (count < 2 ^ 28)
  | .bset => true
  | .mix => true
  | .adv => true
  | .rs0 => true
  | .rs1 => true

end Sys2Proof
end

