-- ==== Sys2Proof/Decode.lean ====
section
/-! DEFINITION. The two formats (spec 30_encoding.md): format CMD, a 32-bit word from the host (R81 to R85), and format
UOP, the code of the phase register (R86). Decoding is total and rejects by name; the encoder follows it. -/

namespace Sys2Proof

/-- What selects an operation: a command word on the host's port, or the phase register (30_encoding.md R80). -/
inductive Code where
  | cmd (cw : CmdWord)
  | uop (ph : PhaseCode)
deriving DecidableEq, Repr

/-- Why a code selects no operation. -/
inductive Rejection where
  /-- A command word with `OP != 0x1` (30_encoding.md R84). -/
  | reservedCommand (cw : CmdWord)
  /-- A phase code that selects no micro-operation: `IDLE`, `0b110`, `0b111` (30_encoding.md R86). -/
  | noMicroOperation (ph : PhaseCode)
deriving DecidableEq, Repr

/-- `OP = cw[31:28]` (30_encoding.md R81). -/
def opField (cw : CmdWord) : BitVec 4 := cw.extractLsb' 28 4

/-- `COUNT = cw[27:0]` (30_encoding.md R81). -/
def countField (cw : CmdWord) : BitVec 28 := cw.extractLsb' 0 28

/-- The decoder of format CMD (30_encoding.md R82, R83, R85): `FILL count`, or reserved. -/
def decodeCmd (cw : CmdWord) : Option Instr :=
  if opField cw = 0x1#4 then some (.fill (countField cw).toNat) else none

/-- The micro-operation a phase code selects (30_encoding.md R86). -/
def decodeUop (ph : PhaseCode) : Option Instr :=
  match ph.toNat with
  | 1 => some .bset
  | 2 => some .mix
  | 3 => some .adv
  | 4 => some .rs0
  | 5 => some .rs1
  | _ => none

/-- The decoder of both formats, total, rejecting by name. -/
def decode : Code → Except Rejection Instr
  | .cmd cw =>
    match decodeCmd cw with
    | some i => .ok i
    | none => .error (.reservedCommand cw)
  | .uop ph =>
    match decodeUop ph with
    | some i => .ok i
    | none => .error (.noMicroOperation ph)

/-- The command word of `FILL count` (30_encoding.md R81, R83). -/
def encodeFill (count : Nat) : CmdWord := 0x1#4 ++ BitVec.ofNat 28 count

/-- The code of an operation, from the same tables (30_encoding.md R83, R86). -/
def encode : Instr → Code
  | .fill count => .cmd (encodeFill count)
  | .bset => .uop 0b001#3
  | .mix => .uop 0b010#3
  | .adv => .uop 0b011#3
  | .rs0 => .uop 0b100#3
  | .rs1 => .uop 0b101#3

/-- The operation that a row of opcode_table.json selects with the bits `w`: a row of format UOP is narrower than a
word (its three bits come as one byte), a row of format CMD is the whole 32-bit word. -/
def decodeTableWord (nbits w : Nat) : Option Instr :=
  if nbits ≤ 8 then
    match decode (.uop (BitVec.ofNat 3 w)) with
    | .ok i => some i
    | .error _ => none
  else
    match decode (.cmd (BitVec.ofNat 32 w)) with
    | .ok i => some i
    | .error _ => none

/-- A row of spec/opcode_table.json: an operation is selected where `bits &&& mask = value`. -/
structure TableRow where
  mnemonic : String
  width : Nat
  mask : Nat
  value : Nat
deriving DecidableEq, Repr

/-- spec/opcode_table.json, row by row. -/
def Instr.row : Instr → TableRow
  | .fill _ => ⟨"FILL", 32, 0xF0000000, 0x10000000⟩
  | .bset => ⟨"BSET", 3, 0x7, 0x1⟩
  | .mix => ⟨"MIX", 3, 0x7, 0x2⟩
  | .adv => ⟨"ADV", 3, 0x7, 0x3⟩
  | .rs0 => ⟨"RS0", 3, 0x7, 0x4⟩
  | .rs1 => ⟨"RS1", 3, 0x7, 0x5⟩

/-- The bits of a code as the table numbers them. -/
def Code.bits : Code → Nat
  | .cmd cw => cw.toNat
  | .uop ph => ph.toNat

/-- How many bits a code has. -/
def Code.width : Code → Nat
  | .cmd _ => 32
  | .uop _ => 3

/-! ### Textual form of a command (30_encoding.md R88) -/

/-- The digits in rising order of value; a numeral of base `b` uses the first `b` of them. Hexadecimal letters may be
of either case. -/
def digitsLower : List Char := "0123456789abcdef".toList

/-- The same with capital letters. -/
def digitsUpper : List Char := "0123456789ABCDEF".toList

/-- The value of a digit of base `b`: its place among the digits of that base. -/
def digitValue (b : Nat) (c : Char) : Option Nat :=
  ((digitsLower.take b).idxOf? c).or ((digitsUpper.take b).idxOf? c)

/-- The value of a numeral of base `b`, most significant digit first, after a part of value `acc`. -/
def numeralValue (b acc : Nat) : List Char → Option Nat
  | [] => some acc
  | c :: cs => (digitValue b c).bind fun d => numeralValue b (acc * b + d) cs

/-- A count in decimal, or in hexadecimal after `0x`. -/
def parseCount : List Char → Option Nat
  | [] => none
  | ['0', 'x'] => none
  | '0' :: 'x' :: cs => numeralValue 16 0 cs
  | cs => numeralValue 10 0 cs

/-- A line without its comment: what stands before the first `;`. -/
def stripComment : List Char → List Char
  | [] => []
  | c :: cs => if c = ';' then [] else c :: stripComment cs

/-- A line without the blanks that end it. -/
def stripBlanks (cs : List Char) : List Char := (cs.reverse.dropWhile (· = ' ')).reverse

/-- `FILL <count>`: the mnemonic, one space, the count in `0 .. 268435455` (30_encoding.md R88). -/
def assemble (line : String) : Option Instr :=
  match stripBlanks (stripComment line.toList) with
  | 'F' :: 'I' :: 'L' :: 'L' :: ' ' :: cs =>
    match parseCount cs with
    | some count => if count < 2 ^ 28 then some (.fill count) else none
    | none => none
  | _ => none

end Sys2Proof
end

