-- ==== Sys2Proof/Config.lean ====
section
/-! DEFINITION. What is fixed before reset is released (spec 00_scope.md R9, R10, R11, R12, R14) and the free values:
what the spec leaves open stands here as a constant with no body, so nothing can be proved of its value. -/

namespace Sys2Proof

/-- Which `NUM` the block was built with (00_scope.md R14): any two functions at all, or the reference
instantiation of 41_batch_sequencer.md R119 and R126. -/
inductive Numerics where
  /-- `NUM` left OPEN: the uninterpreted functions `Config.anyWeights` and `Config.anyMix`. -/
  | uninterpreted
  /-- The reference instantiation `REF64`. -/
  | ref64
deriving DecidableEq, Repr

/-- The implementation parameters (00_scope.md R9, R10, R14; 10_state.md R26). -/
structure Config where
  /-- `M`, the block count of the pool (R9). -/
  m : Nat
  /-- `N`, the block length in samples (R10). -/
  n : Nat
  /-- `NUM`, the numerics (R14). -/
  num : Numerics
deriving DecidableEq, Repr

/-- Well-formed: `1 <= M <= N` (00_scope.md R11). -/
def Config.wf (c : Config) : Bool := decide (1 ≤ c.m) && decide (c.m ≤ c.n)

/-- `IW`, bits of a block index register (00_scope.md R12). -/
def Config.indexWidth (c : Config) : Nat := max 1 (Nat.clog 2 c.m)

/-- `OW`, bits of an offset register (00_scope.md R12). -/
def Config.offsetWidth (c : Config) : Nat := Nat.clog 2 (c.n + 1)

/-- `CNTW`, bits of a sample count (00_scope.md R12). -/
def Config.countWidth : Nat := 28

/-- FREE VALUE (log 6): `NUM.weights` of a block whose numerics are left open (R14). A function of the offset and
`N` alone, which is NUM-P1 and nothing more. -/
opaque Config.anyWeights : Nat → Nat → Weight × Weight

/-- FREE VALUE (log 6): `NUM.mix` of a block whose numerics are left open (R14), a function of its four arguments
alone (NUM-P1). -/
opaque Config.anyMix : Weight → F32 → Weight → F32 → F32

/-- FREE VALUE (log 4): the answer of the reselection source to draw number `t` over `[0, k + 1)` where no listed
draw is left (42_reseed.md R146, U6): some value of that range, nothing else known. -/
opaque Config.freeDraw : (k : Nat) → (t : Nat) → Fin (k + 1)

/-- FREE VALUE (log 10): which NaN `REF64.mix` delivers (41_batch_sequencer.md R126, U5): a sign and a fraction
field less one, so that every NaN pattern is some choice and no other pattern is. -/
opaque Config.freeNaN : Weight → F32 → Weight → F32 → Bool × Fin 8388607

/-- FREE VALUE (log 11): `REF64.weights` where R119 states no result: `N = 0`, or an angle beyond binary64's range. -/
opaque Config.unstatedWeights : Nat → Nat → Weight × Weight

/-- FREE VALUE (log 11): which of two neighbouring roundings is that of the sine of the angle `num / den`, should the
two partial sums of the model that enclose it round apart. -/
opaque Config.sineRoundsAsLonger : Nat → Nat → Bool

/-- FREE VALUE (log 11): the same for the cosine. -/
opaque Config.cosineRoundsAsLonger : Nat → Nat → Bool

end Sys2Proof
end

