-- ==== Sys2Proof/Machine/State.lean ====
section
/-! DEFINITION. The state of the block (spec 10_state.md), the reasons a step can stop, and the state after reset (R37).
Beside the spec's state stand the launch parameters (R26) and the model's own input fields: what the host and the
reselection source, agents outside the block (00_scope.md R3), will do next. -/

namespace Sys2Proof.Machine

/-- One of the two cursors (10_state.md R20; 00_scope.md R17). -/
inductive CursorId where
  | c0
  | c1
deriving DecidableEq, Repr

/-- An event of a run (10_state.md R36). -/
inductive Event where
  /-- A FILL was accepted. -/
  | cmd (count : Nat)
  /-- A pool read of sample `(i, j)`, which gave `v`. -/
  | poolRd (i j : Nat) (v : F32)
  /-- Output sample `n` of the current FILL, left and right. -/
  | out (n : Nat) (l r : F32)
  /-- A draw made for a cursor. -/
  | drawn (c : CursorId) (d : Nat)
  /-- A FILL completed. -/
  | done
  /-- Reset was applied. -/
  | reset
deriving DecidableEq, Repr

/-- The pool's contents: samples at their linear addresses `i * N + j` (20_memory.md R57), the smallest unit the pool
has (R65), in one canonical form (`Memory.wf`). -/
abbrev Memory := List (Nat × F32)

/-- A command word the host will offer (40_fill_command.md R100), and how many steps it leaves an idle block waiting
before it does (70_reset_and_hazards.md R217); at delay 0 the word is on the port (log 7). -/
structure Offer where
  delay : Nat
  word : CmdWord
deriving DecidableEq, Repr

/-- Why the model stops with a fault (60_exceptions.md R181): a guarantee of the rules was broken. -/
inductive Fault where
  /-- `PoolIndexFault(i, j)`, raised by `poolRead` (20_memory.md R53). Safe: no run reaches it (R54). -/
  | poolIndex (i j : Nat)
  /-- `DrawRangeFault(d)`, raised by `draw` (42_reseed.md R146). Safe: only a source that breaks its contract causes
  it. -/
  | drawRange (d : Nat)
  /-- `PhaseFault(ph)`, raised by `step` at a phase code that is none (10_state.md R31). Safe: no rule writes one. -/
  | phase (ph : PhaseCode)
deriving DecidableEq, Repr

/-- Why the model gives an input no meaning (60_exceptions.md R182). -/
inductive Refusal where
  /-- An operation without a meaning in `exec`; no arm raises it. Safe. -/
  | notModelled (mnemonic : String)
  /-- `ReservedCommand(cw)`, raised by `step` at a word with `OP != 0x1` (30_encoding.md R84). Safe. -/
  | reservedCommand (cw : CmdWord)
  /-- `IllFormedConfig(M, N)`, raised by `step` where `M = 0` or `M > N` (00_scope.md R11). Safe. -/
  | illFormedConfig (m n : Nat)
deriving DecidableEq, Repr

/-- Whose step lifts a held step (00_scope.md R19). It is no fault and no refusal: the block goes on once the host acts. -/
inductive HeldBy where
  /-- The block is idle and the host has offered no command (40_fill_command.md R101). -/
  | noCommand
  /-- `MIX` has a sample to deliver and the host has not taken the pair (20_memory.md R64). -/
  | pairNotTaken
deriving DecidableEq, Repr

/-- The state of the block. -/
structure State where
  /-- `M`, `N` and `NUM` (10_state.md R26). -/
  cfg : Config
  /-- The pool's contents (20_memory.md R51). -/
  pool : Memory
  /-- `I0`, block index of cursor 0 (10_state.md R21). -/
  i0 : Nat
  /-- `O0`, offset of cursor 0 (R21). -/
  o0 : Nat
  /-- `I1`, block index of cursor 1 (R21). -/
  i1 : Nat
  /-- `O1`, offset of cursor 1 (R21). -/
  o1 : Nat
  /-- `PH`, the phase register (R30, R31). -/
  ph : PhaseCode
  /-- `REM`, samples of the current FILL still to produce (R30). -/
  rem : Nat
  /-- `KB`, length of the current batch (R30). -/
  kb : Nat
  /-- `J`, index of the next sample within the batch (R30). -/
  j : Nat
  /-- `WR`, samples of the current FILL already delivered (R30). -/
  wr : Nat
  /-- `WS`, weight of cursor 0's samples in the current batch (R30). -/
  ws : Weight
  /-- `WC`, weight of cursor 1's samples in the current batch (R30). -/
  wc : Weight
  /-- The event history, oldest first (R36). -/
  hist : List Event
  /-- Input (log 7): the command words the host offers, in order (40_fill_command.md R100). The first one is on the
  port if its delay is 0; only the first one's delay runs, and only while the block is idle. A host with finitely many
  commands to send is DESIGN CHOICE (log 7): the spec does not say that the host ever stops (70_reset_and_hazards.md
  R203). -/
  offers : List Offer
  /-- Input (log 8): how many steps the host lets pass before it takes each coming output pair (20_memory.md R64);
  a pair beyond the list is taken at once. -/
  waits : List Nat
  /-- Input (log 7): the reset input (70_reset_and_hazards.md R200). -/
  rst : Bool
  /-- Input (log 4): the values the reselection source yields next, where they are given (42_reseed.md R146). -/
  draws : List Nat
  /-- The model's own counter (log 4): draws taken so far, the argument of the next free draw. -/
  taken : Nat
deriving DecidableEq, Repr

/-- The launch (00_scope.md glossary, 70_reset_and_hazards.md R205): a configuration, a pool, and the state of
10_state.md R37. `KB`, `J`, `WS`, `WC` are unspecified there: 0 is DESIGN CHOICE (log 5). The input fields are
quiet: DESIGN CHOICE (logs 4, 7, 8). -/
def State.launch (cfg : Config) (pool : Memory) : State where
  cfg := cfg
  pool := pool
  i0 := 0
  o0 := cfg.n / 2
  i1 := 0
  o1 := 0
  ph := 0b000#3
  rem := 0
  kb := 0
  j := 0
  wr := 0
  ws := 0#64
  wc := 0#64
  hist := [.reset]
  offers := []
  waits := []
  rst := false
  draws := []
  taken := 0

/-- The machine right after reset. The spec leaves `M`, `N`, `NUM` and the pool open: `M = 4, N = 8` of its worked
example, open numerics, and nothing listed in the pool are DESIGN CHOICE (logs 1, 3). -/
def State.reset : State :=
  State.launch ⟨4, 8, .uninterpreted⟩ []

end Sys2Proof.Machine
end

