-- ==== Sys2Proof/Machine/Flags.lean ====
section
/-! DEFINITION. The phase codes and what block and host show each other: `BUSY`, the word on the
command port, and a pair that the host has not taken (spec 10_state.md R31, R32, 40_fill_command.md R100, 20_memory.md R64). The block has no condition code
and no flag that an operation sets as a side effect. -/

namespace Sys2Proof.Machine

/-- `IDLE`, waiting for a host command (10_state.md R31). -/
def phIdle : PhaseCode := 0b000#3

/-- `BSET`, at a batch boundary (R31). -/
def phBset : PhaseCode := 0b001#3

/-- `MIX`, inside a batch (R31). -/
def phMix : PhaseCode := 0b010#3

/-- `ADV`, after the last sample of a batch (R31). -/
def phAdv : PhaseCode := 0b011#3

/-- `RS0`, after the advance (R31). -/
def phRs0 : PhaseCode := 0b100#3

/-- `RS1`, after the check of cursor 0 (R31). -/
def phRs1 : PhaseCode := 0b101#3

/-- `BUSY = (PH != IDLE)` (10_state.md R32). -/
def State.busy (s : State) : Bool := s.ph != phIdle

/-- The word on the command port, if the host offers one now (40_fill_command.md R100). -/
def State.port (s : State) : Option CmdWord :=
  match s.offers with
  | ⟨0, cw⟩ :: _ => some cw
  | ⟨_ + 1, _⟩ :: _ => none
  | [] => none

/-- Whether `MIX` has a sample to deliver and the host lets another step pass before it takes the pair (20_memory.md R64). -/
def State.pairNotTaken (s : State) : Bool :=
  decide (s.ph = phMix) && decide (s.j < s.kb) &&
    match s.waits with
    | (_ + 1) :: _ => true
    | 0 :: _ => false
    | [] => false

end Sys2Proof.Machine
end

