-- ==== Sys2Proof/Machine/Numerics.lean ====
section
/-! DEFINITION. `NUM` (spec 00_scope.md R14): the reference instantiation `REF64` (41_batch_sequencer.md R119, R126) on bit
patterns, and the choice between it and open numerics. A finite value is an exact rational; `RN32` and `RN64`
(00_scope.md R16) are one rounding function at two formats. -/

namespace Sys2Proof.Machine

/-- An IEEE 754 interchange format (00_scope.md R13): widths of the exponent and fraction fields. -/
structure FloatFormat where
  expBits : Nat
  fracBits : Nat
deriving DecidableEq, Repr

/-- binary32: 8 and 23 bits. -/
def binary32 : FloatFormat := ⟨8, 23⟩

/-- binary64: 11 and 52 bits. -/
def binary64 : FloatFormat := ⟨11, 52⟩

/-- The exponent bias: 127 for binary32, 1023 for binary64. -/
def FloatFormat.bias (f : FloatFormat) : Nat := 2 ^ (f.expBits - 1) - 1

/-- `k` where `2 ^ (-k)` is the smallest positive value of the format. -/
def FloatFormat.minExp (f : FloatFormat) : Nat := f.bias - 1 + f.fracBits

/-- The magnitude pattern of an infinity: exponent field all ones, fraction 0. -/
def FloatFormat.infBits (f : FloatFormat) : Nat := (2 ^ f.expBits - 1) * 2 ^ f.fracBits

/-- The sign bit as a number. -/
def FloatFormat.signBits (f : FloatFormat) (neg : Bool) : Nat :=
  if neg then 2 ^ (f.expBits + f.fracBits) else 0

/-- A floating-point datum: NaN, a signed infinity, or the finite value `± num / den`, its zeros signed. -/
inductive Datum where
  | nan
  | inf (neg : Bool)
  | fin (neg : Bool) (num den : Nat)
deriving DecidableEq, Repr

/-- What a pattern denotes, exactly (00_scope.md R13). -/
def FloatFormat.read (f : FloatFormat) (bits : Nat) : Datum :=
  let neg := decide (bits / 2 ^ (f.expBits + f.fracBits) % 2 = 1)
  let e := bits / 2 ^ f.fracBits % 2 ^ f.expBits
  let frac := bits % 2 ^ f.fracBits
  if e = 2 ^ f.expBits - 1 then (if frac = 0 then .inf neg else .nan)
  else if e = 0 then .fin neg frac (2 ^ f.minExp)
  else .fin neg ((2 ^ f.fracBits + frac) * 2 ^ (e - 1)) (2 ^ f.minExp)

/-- The nearest natural number to `a / b`, ties to even. -/
def nearestEven (a b : Nat) : Nat :=
  let q := a / b
  let r := a % b
  if b < 2 * r ∨ (2 * r = b ∧ q % 2 = 1) then q + 1 else q

/-- For `x = num * 2 ^ minExp / den`, a value in units of the smallest positive one: the power of two that is one unit
in the last place of `x`, 0 in the subnormal range. -/
def ulpExp (f : FloatFormat) (num den : Nat) : Nat :=
  Nat.log2 (num * 2 ^ f.minExp / den) - f.fracBits

/-- `RN32` and `RN64` of `± num / den` (00_scope.md R16): to nearest, ties to even, overflow to infinity, as a pattern. A carry
out of the significand runs into the exponent field, which is the next exponent. -/
def FloatFormat.round (f : FloatFormat) (neg : Bool) (num den : Nat) : Nat :=
  let t := ulpExp f num den
  let mag := t * 2 ^ f.fracBits + nearestEven (num * 2 ^ f.minExp) (den * 2 ^ t)
  f.signBits neg + (if f.infBits ≤ mag then f.infBits else mag)

/-- Round a datum into a format and read it back: the value an operation of that format gives. -/
def FloatFormat.rounded (f : FloatFormat) : Datum → Datum
  | .nan => .nan
  | .inf neg => .inf neg
  | .fin neg num den => f.read (f.round neg num den)

/-- The exact product of two data, IEEE 754 rules for special values (41_batch_sequencer.md R126). -/
def Datum.mul : Datum → Datum → Datum
  | .nan, _ => .nan
  | _, .nan => .nan
  | .inf a, .inf b => .inf (a != b)
  | .inf a, .fin b num _ => if num = 0 then .nan else .inf (a != b)
  | .fin a num _, .inf b => if num = 0 then .nan else .inf (a != b)
  | .fin a num den, .fin b num' den' => .fin (a != b) (num * num') (den * den')

/-- The exact sum of two finite data; an exact zero is negative only where both operands are (round to nearest). -/
def Datum.addFin (a : Bool) (num den : Nat) (b : Bool) (num' den' : Nat) : Datum :=
  let x := num * den'
  let y := num' * den
  if a = b then .fin a (x + y) (den * den')
  else if y < x then .fin a (x - y) (den * den')
  else if x < y then .fin b (y - x) (den * den')
  else .fin false 0 (den * den')

/-- The exact sum of two data, IEEE 754 rules for special values (41_batch_sequencer.md R126). -/
def Datum.add : Datum → Datum → Datum
  | .nan, _ => .nan
  | _, .nan => .nan
  | .inf a, .inf b => if a = b then .inf a else .nan
  | .inf a, .fin _ _ _ => .inf a
  | .fin _ _ _, .inf b => .inf b
  | .fin a num den, .fin b num' den' => Datum.addFin a num den b num' den'

/-- A NaN of binary32 from a sign and a fraction field less one. -/
def nanPattern (choice : Bool × Fin 8388607) : F32 :=
  BitVec.ofNat 32 (binary32.signBits choice.1 + binary32.infBits + (choice.2.val + 1))

/-- Whether a binary32 pattern is a NaN. -/
def isNaN32 (x : F32) : Bool := decide (binary32.read x.toNat = .nan)

/-- Whether a datum is finite. -/
def Datum.isFinite : Datum → Bool
  | .fin _ _ _ => true
  | .inf _ => false
  | .nan => false

/-- Whether a binary32 pattern is finite (`PoolFinite`, 20_memory.md R58). -/
def isFinite32 (x : F32) : Bool := (binary32.read x.toNat).isFinite

/-- `s64` of `REF64.mix`, before it is narrowed (41_batch_sequencer.md R126): two binary64 products and their binary64 sum, no
fused multiply-add. -/
def ref64Sum (ws : Weight) (x0 : F32) (wc : Weight) (x1 : F32) : Datum :=
  let p0 := binary64.rounded (Datum.mul (binary64.read ws.toNat) (binary32.read x0.toNat))
  let p1 := binary64.rounded (Datum.mul (binary64.read wc.toNat) (binary32.read x1.toNat))
  binary64.rounded (Datum.add p0 p1)

/-- `REF64.mix` (41_batch_sequencer.md R126). A NaN result is a free choice among the NaN patterns (log 10). -/
def ref64Mix (ws : Weight) (x0 : F32) (wc : Weight) (x1 : F32) : F32 :=
  match ref64Sum ws x0 wc x1 with
  | .nan => nanPattern (Config.freeNaN ws x0 wc x1)
  | .inf neg => BitVec.ofNat 32 (binary32.signBits neg + binary32.infBits)
  | .fin neg num den => BitVec.ofNat 32 (binary32.round neg num den)

/-- `n` levels of the nested Taylor series `1 - x²/((k+1)(k+2)) * (1 - x²/((k+3)(k+4)) * …)` at `x = num / den`, as
a numerator and a denominator. -/
def nestedTaylor (num den : Nat) (k : Nat) : Nat → Int × Nat
  | 0 => (1, 1)
  | n + 1 =>
    let inner := nestedTaylor num den (k + 2) n
    let d := (k + 1) * (k + 2) * den ^ 2
    ((d * inner.2 : Nat) - (num ^ 2 : Nat) * inner.1, d * inner.2)

/-- `RN64` of a signed rational. -/
def round64 (num : Int) (den : Nat) : Weight :=
  BitVec.ofNat 64 (binary64.round (decide (num < 0)) num.natAbs den)

/-- Levels of the series taken for `x = num / den`: past them the terms fall, and the remainder is far below half a
unit in the last place. -/
def taylorLevels (num den : Nat) : Nat := 40 + 4 * (num / den)

/-- The rounding of a number that lies between two others, from their roundings: the common one, or, where they differ,
whichever of the two the free choice names. -/
def enclosedRounding (shorter longer : Weight) (asLonger : Bool) : Weight :=
  if shorter = longer then shorter else if asLonger then longer else shorter

/-- `RN64(sin x)` (41_batch_sequencer.md R119): the sine lies between two consecutive partial sums (log 11). -/
def sin64 (num den : Nat) : Weight :=
  let lo := nestedTaylor num den 1 (taylorLevels num den)
  let hi := nestedTaylor num den 1 (taylorLevels num den + 1)
  enclosedRounding (round64 (num * lo.1) (den * lo.2)) (round64 (num * hi.1) (den * hi.2))
    (Config.sineRoundsAsLonger num den)

/-- `RN64(cos x)` (41_batch_sequencer.md R119), in the same way (log 11). -/
def cos64 (num den : Nat) : Weight :=
  let lo := nestedTaylor num den 0 (taylorLevels num den)
  let hi := nestedTaylor num den 0 (taylorLevels num den + 1)
  enclosedRounding (round64 lo.1 lo.2) (round64 hi.1 hi.2) (Config.cosineRoundsAsLonger num den)

/-- `PI64`, the binary64 nearest to π (41_batch_sequencer.md R119). -/
def pi64 : Datum := binary64.read 0x400921FB54442D18

/-- The angle `a = RN64(RN64(PI64 × o) / N)`, multiply first, then divide (41_batch_sequencer.md R119), for `N >= 1`. -/
def ref64Angle (o n : Nat) : Datum :=
  let p := binary64.rounded (Datum.mul pi64 (.fin false o 1))
  binary64.rounded (Datum.mul p (.fin false 1 n))

/-- `REF64.weights` (41_batch_sequencer.md R119); where that rule states no result, a free value (log 11). -/
def ref64Weights (o n : Nat) : Weight × Weight :=
  if n = 0 then Config.unstatedWeights o n
  else
    match ref64Angle o n with
    | .fin _ num den => (sin64 num den, cos64 num den)
    | .inf _ => Config.unstatedWeights o n
    | .nan => Config.unstatedWeights o n

/-- `NUM.weights(o, N)` (00_scope.md R14). -/
def numWeights (num : Numerics) (o n : Nat) : Weight × Weight :=
  match num with
  | .uninterpreted => Config.anyWeights o n
  | .ref64 => ref64Weights o n

/-- `NUM.mix(ws, x0, wc, x1)` (00_scope.md R14). -/
def numMix (num : Numerics) (ws : Weight) (x0 : F32) (wc : Weight) (x1 : F32) : F32 :=
  match num with
  | .uninterpreted => Config.anyMix ws x0 wc x1
  | .ref64 => ref64Mix ws x0 wc x1

end Sys2Proof.Machine
end

