-- ==== Sys2Proof/Machine/Operands.lean ====
section
/-! DEFINITION. The operand forms of the micro-operations: the cursor registers by number (spec 00_scope.md R17), the batch
length (41_batch_sequencer.md R121) and the pool addresses of a sample (R124, 20_memory.md R57). -/

namespace Sys2Proof.Machine

/-- `I[c]` (00_scope.md R17). -/
def State.idx (s : State) : CursorId → Nat
  | .c0 => s.i0
  | .c1 => s.i1

/-- `O[c]` (00_scope.md R17). -/
def State.off (s : State) : CursorId → Nat
  | .c0 => s.o0
  | .c1 => s.o1

/-- `I[c] <- v` (00_scope.md R17). -/
def State.setIdx (s : State) (c : CursorId) (v : Nat) : State :=
  match c with
  | .c0 => { s with i0 := v }
  | .c1 => { s with i1 := v }

/-- `O[c] <- v` (00_scope.md R17). -/
def State.setOff (s : State) (c : CursorId) (v : Nat) : State :=
  match c with
  | .c0 => { s with o0 := v }
  | .c1 => { s with o1 := v }

/-- The batch length `k = min(REM, N - O0, N - O1)` (41_batch_sequencer.md R121). -/
def batchLength (s : State) : Nat := min s.rem (min (s.cfg.n - s.o0) (s.cfg.n - s.o1))

/-- The offset that cursor `c` reads for sample `j` of a batch (41_batch_sequencer.md R124). -/
def sampleOffset (s : State) (c : CursorId) (j : Nat) : Nat := s.off c + j

/-- The linear address of pool sample `(i, j)`, counted in samples (20_memory.md R57). -/
def linearAddress (n i j : Nat) : Nat := i * n + j

end Sys2Proof.Machine
end

