-- ==== Sys2Proof/Machine/Ops.lean ====
section
/-! DEFINITION. The primitives, the only ways a rule touches anything outside the registers (spec 00_scope.md R18): the pool
and its reader, the output streamer, the reselection source, completion; reset; and what the block runs next. The
block takes no exception and returns from none (60_exceptions.md R175, R180), so no such operation stands here. -/

namespace Sys2Proof.Machine

/-! ### Outcomes -/

/-- The outcome of an operation that may fault. -/
def finish (r : Except Fault State) : Host.Outcome State Fault Refusal :=
  match r with
  | .ok t => .next t
  | .error f => .fault f

/-- The meaning of an operation that is not the one that runs: nothing happens. A micro-operation that `PH` does not
select is DEDUCED (log 12); a FILL word at a busy block stays on the port (40_fill_command.md R100). -/
def notSelected (s : State) : Host.Outcome State Fault Refusal := .next s

/-! ### The pool's contents -/

/-- What a sample that is not listed reads as: `+0.0`. DESIGN CHOICE (log 3): the spec gives the pool no contents. -/
def Memory.unlisted : F32 := 0#32

/-- The sample at a linear address. -/
def Memory.read : Memory → Nat → F32
  | [], _ => Memory.unlisted
  | (b, v) :: mem, a => if a = b then v else Memory.read mem a

/-- Put a sample at an address and keep the canonical form. Only a launch writes the pool (20_memory.md R51): no
operation of the block calls this. -/
def Memory.write : Memory → Nat → F32 → Memory
  | [], a, x => if x = Memory.unlisted then [] else [(a, x)]
  | (b, v) :: mem, a, x =>
    if a < b then (if x = Memory.unlisted then (b, v) :: mem else (a, x) :: (b, v) :: mem)
    else if a = b then (if x = Memory.unlisted then mem else (a, x) :: mem)
    else (b, v) :: Memory.write mem a x

/-- Addresses rise from `lo`, and no entry equals what an unlisted address reads as. -/
def Memory.wfFrom : Nat → Memory → Bool
  | _, [] => true
  | lo, (b, v) :: mem => decide (lo ≤ b) && (decide (v ≠ Memory.unlisted) && Memory.wfFrom (b + 1) mem)

/-- The canonical form. -/
def Memory.wf (mem : Memory) : Bool := Memory.wfFrom 0 mem

/-- Every listed address is below `size`: the pool has no sample at any other place (20_memory.md R50, R52). -/
def Memory.within (size : Nat) (mem : Memory) : Bool := mem.all fun cell => decide (cell.1 < size)

/-- Store samples at consecutive addresses from `a` on. -/
def Memory.writeAll : Memory → Nat → List F32 → Memory
  | mem, _, [] => mem
  | mem, a, x :: xs => Memory.writeAll (Memory.write mem a x) (a + 1) xs

/-- A pool from its blocks, block 0 first (43_pool_construction.md R155, R166). -/
def Memory.ofBlocks (blocks : List (List F32)) : Memory := Memory.writeAll [] 0 blocks.flatten

/-- `POOL[i][j]` (20_memory.md R51). -/
def State.sample (s : State) (i j : Nat) : F32 := Memory.read s.pool (linearAddress s.cfg.n i j)

/-! ### The primitives -/

/-- Append an event to the history (10_state.md R36). -/
def State.log (s : State) (e : Event) : State := { s with hist := s.hist ++ [e] }

/-- `PoolRead(i, j)` (20_memory.md R53). -/
def poolRead (s : State) (i j : Nat) : Except Fault (F32 × State) :=
  if i < s.cfg.m ∧ j < s.cfg.n then
    .ok (s.sample i j, s.log (.poolRd i j (s.sample i j)))
  else
    .error (.poolIndex i j)

/-- `OutWrite(WR, l, r)` (20_memory.md R61): deliver the next sample of the current FILL. The rule's `n = WR` holds
because `WR` is the index used. -/
def outWrite (s : State) (l r : F32) : State :=
  { s.log (.out s.wr l r) with wr := s.wr + 1 }

/-- The value the reselection source yields next (42_reseed.md R146): the next listed one, else a free value (log 4). -/
def State.nextDraw (s : State) : Nat :=
  match s.draws with
  | d :: _ => d
  | [] => (Config.freeDraw (s.cfg.m - 1) s.taken).val

/-- Whether the next value is in `[0, M)` (42_reseed.md R146). A listed value is compared; a free one is in range by
its type, wherever the range holds a value at all. It says `s.nextDraw < s.cfg.m` (`drawInRange_iff`). -/
def State.drawInRange (s : State) : Bool :=
  match s.draws with
  | d :: _ => decide (d < s.cfg.m)
  | [] => decide (0 < s.cfg.m)

/-- `Draw()` for cursor `c` (42_reseed.md R146): the source advances; a value outside `[0, M)` is a fault. -/
def draw (s : State) (c : CursorId) : Except Fault (Nat × State) :=
  if s.drawInRange then
    .ok (s.nextDraw,
      { s.log (.drawn c s.nextDraw) with draws := s.draws.tail, taken := s.taken + 1 })
  else
    .error (.drawRange s.nextDraw)

/-- The boundary/reseed rule for cursor `c` (42_reseed.md R140): compared with `M`, the block COUNT. -/
def reseed (c : CursorId) (s : State) : Except Fault State :=
  if s.cfg.m ≤ s.off c then
    match draw s c with
    | .ok (d, t) => .ok ((t.setOff c 0).setIdx c d)
    | .error f => .error f
  else
    .ok s

/-- One output sample, number `j` of a batch with weights `ws`, `wc` (41_batch_sequencer.md R123, R124): two pool
reads, the mix, the same value to both channels (20_memory.md R62). -/
def mixSample (ws wc : Weight) (j : Nat) (s : State) : Except Fault State :=
  match poolRead s (s.idx .c0) (sampleOffset s .c0 j) with
  | .error f => .error f
  | .ok (x0, s1) =>
    match poolRead s1 (s1.idx .c1) (sampleOffset s1 .c1 j) with
    | .error f => .error f
    | .ok (x1, s2) =>
      let y := numMix s.cfg.num ws x0 wc x1
      .ok (outWrite s2 y y)

/-- `Done()` (40_fill_command.md R107). -/
def fillDone (s : State) : State := s.log .done

/-! ### The output channels, read off the history -/

/-- The pairs delivered since the last FILL was accepted or reset was applied, given those before the event. -/
def outStep (acc : List (F32 × F32)) : Event → List (F32 × F32)
  | .cmd _ => []
  | .out _ l r => acc ++ [(l, r)]
  | .reset => []
  | .poolRd _ _ _ => acc
  | .drawn _ _ => acc
  | .done => acc

/-- `OUT` of the current FILL (20_memory.md R50, R60): pair `n` is what sample `n` put on the two channels. -/
def currentOut (hist : List Event) : List (F32 × F32) := hist.foldl outStep []

/-- The count of the FILL that runs, given that of before the event. -/
def countStep (acc : Option Nat) : Event → Option Nat
  | .cmd count => some count
  | .done => none
  | .reset => none
  | .poolRd _ _ _ => acc
  | .out _ _ _ => acc
  | .drawn _ _ => acc

/-- The count of the FILL that runs now, if one does. -/
def currentCount (hist : List Event) : Option Nat := hist.foldl countStep none

/-! ### The command port -/

/-- The host's words once the one on the port, if there is one, has left it: taken by the block, or dropped. -/
def withoutPortWord : List Offer → List Offer
  | ⟨0, _⟩ :: rest => rest
  | ⟨d + 1, cw⟩ :: rest => ⟨d + 1, cw⟩ :: rest
  | [] => []

/-- The host's words after it waited one more step with the block idle (70_reset_and_hazards.md R217; log 7). -/
def oneStepNearer : List Offer → List Offer
  | ⟨d + 1, cw⟩ :: rest => ⟨d, cw⟩ :: rest
  | ⟨0, cw⟩ :: rest => ⟨0, cw⟩ :: rest
  | [] => []

/-- The host's delays of the coming pairs after it let one more step pass (20_memory.md R64; log 8). -/
def pairOneStepNearer : List Nat → List Nat
  | (w + 1) :: ws => w :: ws
  | 0 :: ws => 0 :: ws
  | [] => []

/-- The state after a held step: nothing of the block changes, and the host comes one step nearer to what lifts it. -/
def hostWaits (why : HeldBy) (s : State) : State :=
  { s with
    offers :=
      match why with
      | .noCommand => oneStepNearer s.offers
      | .pairNotTaken => s.offers
    waits :=
      match why with
      | .noCommand => s.waits
      | .pairNotTaken => pairOneStepNearer s.waits }

/-- How a held step (00_scope.md R19) is answered through the host's interface, which has no fourth outcome: the block as it
was. DESIGN CHOICE (log 2). `outcome` has all four. -/
def held (why : HeldBy) (s : State) : Host.Outcome State Fault Refusal := .next (hostWaits why s)

/-! ### Reset -/

/-- Reset applied in any state (70_reset_and_hazards.md R200, R202): the state of 10_state.md R37, the pool and the
reselection source as they are, `Reset` appended to the history. A command word that was being held is dropped; one
that was on the port of an idle block was not being held (40_fill_command.md R100) and stays: DEDUCED (log 7). -/
def applyReset (s : State) : State :=
  { State.launch s.cfg s.pool with
    hist := s.hist ++ [.reset]
    offers := if s.busy then withoutPortWord s.offers else s.offers
    waits := s.waits
    draws := s.draws
    taken := s.taken }

/-! ### What the block runs next -/

/-- What the phase register and the host select. -/
inductive Selected where
  /-- The step cannot fire yet (00_scope.md R19). -/
  | held (why : HeldBy)
  /-- An operation. -/
  | run (i : Instr)
  /-- Idle, and a reserved word offered (30_encoding.md R84). -/
  | reserved (cw : CmdWord)
  /-- A phase code that is none (10_state.md R31). -/
  | noPhase (ph : PhaseCode)
deriving DecidableEq, Repr

/-- What the block runs next (10_state.md R27, R31): idle, the word on the port; else the micro-operation of `PH`. -/
def select (s : State) : Selected :=
  if s.ph = phIdle then
    match s.port with
    | none => .held .noCommand
    | some cw =>
      match decode (.cmd cw) with
      | .ok i => .run i
      | .error _ => .reserved cw
  else
    match decode (.uop s.ph) with
    | .ok i => if s.pairNotTaken then .held .pairNotTaken else .run i
    | .error _ => .noPhase s.ph

end Sys2Proof.Machine
end

