-- ==== Sys2Proof/Machine/Batch.lean ====
section
/-! DEFINITION. The batch micro-operations `BSET`, `MIX`, `ADV` (spec 41_batch_sequencer.md). Each has the condition that `PH`
selects it; where `PH` does not, it is not the operation that runs (10_state.md R27) and nothing happens: DEDUCED
(log 12). -/

namespace Sys2Proof.Machine

/-- `BSET`, batch set-up (41_batch_sequencer.md R122). -/
def execBset (s : State) : Host.Outcome State Fault Refusal :=
  if s.ph = phBset then
    let w := numWeights s.cfg.num s.o0 s.cfg.n
    .next { s with ws := w.1, wc := w.2, kb := batchLength s, j := 0, ph := phMix }
  else
    notSelected s

/-- The arm of `MIX` that produces a sample, once the host takes the pair (41_batch_sequencer.md R125). -/
def mixOne (s : State) : Except Fault State :=
  match mixSample s.ws s.wc s.j s with
  | .ok t => .ok { t with j := s.j + 1, waits := s.waits.tail }
  | .error f => .error f

/-- `MIX`, one output sample, or the exit from the batch (41_batch_sequencer.md R125). The sample-producing arm is
held until the host takes the pair (20_memory.md R64): each held step uses up one of the host's delays. -/
def execMix (s : State) : Host.Outcome State Fault Refusal :=
  if s.ph = phMix then
    if s.pairNotTaken then held .pairNotTaken s
    else if s.j < s.kb then finish (mixOne s)
    else .next { s with ph := phAdv }
  else
    notSelected s

/-- `ADV`, advance both cursors (41_batch_sequencer.md R130). -/
def execAdv (s : State) : Host.Outcome State Fault Refusal :=
  if s.ph = phAdv then
    .next { s with o0 := s.o0 + s.kb, o1 := s.o1 + s.kb, rem := s.rem - s.kb, ph := phRs0 }
  else
    notSelected s

end Sys2Proof.Machine
end

