-- ==== Sys2Proof/Machine/Fill.lean ====
section
/-! DEFINITION. The host command `FILL`, acceptance step (spec 40_fill_command.md R100 to R104). -/

namespace Sys2Proof.Machine

/-- `FILL count` (40_fill_command.md R102, R104): with `PH = IDLE` the word leaves the port, `REM <- count`,
`WR <- 0`, `Cmd(count)` is recorded; a zero count completes at once. While `BUSY = 1` the word is held (R100). -/
def execFill (count : Nat) (s : State) : Host.Outcome State Fault Refusal :=
  if s.ph = phIdle then
    let t := { s.log (.cmd count) with rem := count, wr := 0, offers := withoutPortWord s.offers }
    .next (if count = 0 then fillDone t else { t with ph := phBset })
  else
    notSelected s

end Sys2Proof.Machine
end

