-- ==== Sys2Proof/Machine/Reseed.lean ====
section
/-! DEFINITION. The reseed micro-operations `RS0` and `RS1` (spec 42_reseed.md). As in Batch.lean, nothing happens where `PH`
does not select them: DEDUCED (log 12). -/

namespace Sys2Proof.Machine

/-- `RS0`, boundary test and reseed of cursor 0 (42_reseed.md R141). -/
def execRs0 (s : State) : Host.Outcome State Fault Refusal :=
  if s.ph = phRs0 then
    match reseed .c0 s with
    | .ok t => .next { t with ph := phRs1 }
    | .error f => .fault f
  else
    notSelected s

/-- The loop decision of `RS1` (42_reseed.md R143): another batch, or done. -/
def loopDecision (s : State) : State :=
  if s.rem = 0 then { fillDone s with ph := phIdle } else { s with ph := phBset }

/-- `RS1`, boundary test and reseed of cursor 1, then the loop decision (42_reseed.md R143). -/
def execRs1 (s : State) : Host.Outcome State Fault Refusal :=
  if s.ph = phRs1 then
    match reseed .c1 s with
    | .ok t => .next (loopDecision t)
    | .error f => .fault f
  else
    notSelected s

end Sys2Proof.Machine
end

