-- ==== Sys2Proof/Machine/Dispatch.lean ====
section
/-! DEFINITION. One arm per operation of the block (spec opcode_table.json). -/

namespace Sys2Proof.Machine

def exec (i : Instr) (s : State) : Host.Outcome State Fault Refusal :=
  match i with
  | .fill count => Sys2Proof.Machine.execFill count s
  | .bset => Sys2Proof.Machine.execBset s
  | .mix => Sys2Proof.Machine.execMix s
  | .adv => Sys2Proof.Machine.execAdv s
  | .rs0 => Sys2Proof.Machine.execRs0 s
  | .rs1 => Sys2Proof.Machine.execRs1 s

end Sys2Proof.Machine
end

