-- ==== Sys2Proof/Machine/Outcome.lean ====
section
/-! DEFINITION. The four outcomes of a step (spec 00_scope.md R19, 40_fill_command.md R114) and when each is given. -/

namespace Sys2Proof.Machine

/-- A step of the block has exactly one of these outcomes (00_scope.md R19). -/
inductive StepOutcome where
  /-- The step fired. -/
  | next (t : State)
  /-- An invariant that the rules guarantee is broken (60_exceptions.md R181). -/
  | fault (f : Fault)
  /-- The input has no meaning (60_exceptions.md R182). -/
  | refused (r : Refusal)
  /-- The step cannot fire yet, and the host's step lifts it. -/
  | held (why : HeldBy)
deriving DecidableEq, Repr

/-- The outcome of an operation that runs. -/
def StepOutcome.ofExec : Host.Outcome State Fault Refusal → StepOutcome
  | .next t => .next t
  | .fault f => .fault f
  | .refused r => .refused r

/-- The outcome of the next step. A configuration that is not well-formed is refused (60_exceptions.md R182); reset overrides
everything else (60_exceptions.md R179); a step that waits for the host is held (00_scope.md R19); a reserved word is refused
(30_encoding.md R84); a phase code that is none faults (10_state.md R31); anything else is that of `exec`. -/
def outcome (s : State) : StepOutcome :=
  if s.cfg.wf then
    if s.rst then .next (applyReset s)
    else
      match select s with
      | .held why => .held why
      | .run i => .ofExec (exec i s)
      | .reserved cw => .refused (.reservedCommand cw)
      | .noPhase ph => .fault (.phase ph)
  else
    .refused (.illFormedConfig s.cfg.m s.cfg.n)

end Sys2Proof.Machine
end

