-- ==== Sys2Proof/Machine/Step.lean ====
section
/-! DEFINITION. One step of the block through the host's interface and how an operation comes to be the next one. -/

namespace Sys2Proof.Machine

/-- One step: the outcome of R19 (`outcome`) through the host's interface. It has three outcomes, so a held step is
answered by `held`, the block as it was (log 2). -/
def step (s : State) : Host.Outcome State Fault Refusal :=
  match outcome s with
  | .next t => .next t
  | .fault f => .fault f
  | .refused r => .refused r
  | .held why => held why s

/-- `s` with the operation of an opcode-table row as the next one (log 13): a row of format UOP is a code in the phase
register, a row of format CMD is a word on the port of an idle block. The reset input is low, or the next step would
be the reset. -/
def State.withFetchWord (s : State) (nbits w : Nat) : State :=
  if nbits ≤ 8 then
    { s with ph := BitVec.ofNat 3 w, rst := false }
  else
    { s with ph := phIdle, offers := ⟨0, BitVec.ofNat 32 w⟩ :: s.offers, rst := false }

end Sys2Proof.Machine
end

