-- ==== Sys2Proof/Machine/BigStep.lean ====
section
/-! DEFINITION. The whole-command meaning of `FILL`, the normative one (spec 40_fill_command.md R103, 10_state.md R28), over the
same primitives as the micro-operations. `REM` holds the loop's `rem` and `WR` its `n`. The loop is given a number of
batches it may run, since it need not end where `M > N` (70_reset_and_hazards.md R212). -/

namespace Sys2Proof.Machine

/-- The `for j` loop of a batch: `k` samples from number `j` on (40_fill_command.md R103). -/
def bigSamples (ws wc : Weight) : (k j : Nat) → State → Except Fault State
  | 0, _, s => .ok s
  | k + 1, j, s =>
    match mixSample ws wc j s with
    | .ok t => bigSamples ws wc k (j + 1) t
    | .error f => .error f

/-- The lines `O0 <- O0 + k`, `O1 <- O1 + k`, `rem <- rem - k` (40_fill_command.md R103). -/
def bigAdvance (k : Nat) (s : State) : State :=
  { s with o0 := s.o0 + k, o1 := s.o1 + k, rem := s.rem - k }

/-- The body of the `while` loop, one batch (40_fill_command.md R103). -/
def bigBatch (s : State) : Except Fault State :=
  let w := numWeights s.cfg.num s.o0 s.cfg.n
  let k := batchLength s
  match bigSamples w.1 w.2 k 0 s with
  | .error f => .error f
  | .ok t =>
    match reseed .c0 (bigAdvance k t) with
    | .error f => .error f
    | .ok u => reseed .c1 u

/-- The `while rem > 0` loop, at most `batches` times; `none` where that was not enough. -/
def bigLoop : (batches : Nat) → State → Option (Except Fault State)
  | 0, s => if s.rem = 0 then some (.ok (fillDone s)) else none
  | b + 1, s =>
    if s.rem = 0 then some (.ok (fillDone s))
    else
      match bigBatch s with
      | .error f => some (.error f)
      | .ok t => bigLoop b t

/-- `rem <- count`, `n <- 0`, the command recorded (10_state.md R36). -/
def bigStart (count : Nat) (s : State) : State :=
  { s.log (.cmd count) with rem := count, wr := 0 }

/-- `FILL(count)` (40_fill_command.md R103), with at most `batches` batches. -/
def bigFill (batches count : Nat) (s : State) : Option (Except Fault State) :=
  bigLoop batches (bigStart count s)

end Sys2Proof.Machine
end

