-- ==== Sys2Proof/Safety.lean ====
section
/-! DEFINITION. What counts as a safe state and a right history, in the terms the statements use: the launch premises
(spec 70_reset_and_hazards.md R208), the invariants (10_state.md R22, R23, R30), what a history says of the output
(20_memory.md R62, R63), and the named properties of `NUM` (41_batch_sequencer.md R120). -/

namespace Sys2Proof.Machine

/-! ### Launch premises (70_reset_and_hazards.md R208) -/

/-- `PoolBuilt`: the pool is in its one form and has samples at `[0, M) × [0, N)` only (20_memory.md R51, R52). -/
def PoolBuilt (s : State) : Prop :=
  Memory.wf s.pool = true ∧ Memory.within (s.cfg.m * s.cfg.n) s.pool = true

/-- `PoolFinite`: no pool sample is a NaN or an infinity (20_memory.md R58). -/
def PoolFinite (s : State) : Prop :=
  ∀ i j, i < s.cfg.m → j < s.cfg.n → isFinite32 (s.sample i j) = true

/-- `DrawsInRange`: every value the reselection source yields is `< M` (42_reseed.md R146). -/
def DrawsInRange (s : State) : Prop := ∀ d ∈ s.draws, d < s.cfg.m

/-- `AtReset`: the cursor registers, `PH`, `REM` and `WR` as 10_state.md R37 gives them. -/
def AtReset (s : State) : Prop :=
  s.i0 = 0 ∧ s.o0 = s.cfg.n / 2 ∧ s.i1 = 0 ∧ s.o1 = 0 ∧ s.ph = phIdle ∧ s.rem = 0 ∧ s.wr = 0

/-- `HostObeys`: the host keeps the duties of 70_reset_and_hazards.md R216. Two of the six have no clause, since no `State`
can break them: `waits` makes it take every pair after finitely many steps, in order, and no step writes the pool. Every step
keeps the others, which makes them statements about the run. -/
structure HostObeys (s : State) : Prop where
  /-- It released reset only after the pool was built (R205). -/
  built : PoolBuilt s
  /-- It sends only FILL command words. -/
  fills : ∀ o ∈ s.offers, opField o.word = 0x1#4
  /-- It sends a command only when the previous one has completed: no word is on the port while a FILL runs, … -/
  waitsForCompletion : s.busy = true → s.port = none
  /-- … and each word behind the first leaves the block idle for a step before it comes. -/
  waitsBetween : ∀ o ∈ s.offers.tail, 1 ≤ o.delay
  /-- It provides a reselection source that yields values in `[0, M)`. -/
  source : DrawsInRange s

/-- `NoFault`: no fault of 60_exceptions.md R181 is recorded, however far the run goes. -/
def NoFault (s : State) : Prop := ∀ k f, Sys2Proof.core.run k s ≠ .fault f

/-- A hang: an infinite run of steps that never reaches `PH = IDLE` (00_scope.md R19). -/
def Hangs (s : State) : Prop := ∀ k, ∃ t, Sys2Proof.core.run k s = .next t ∧ t.ph ≠ phIdle

/-! ### The invariant of the registers -/

/-- What holds in every state a run reaches, in a well-formed configuration. -/
structure Inv (s : State) : Prop where
  /-- `1 <= M <= N` (00_scope.md R11). -/
  config : 1 ≤ s.cfg.m ∧ s.cfg.m ≤ s.cfg.n
  /-- `PoolBuilt` (20_memory.md R71). -/
  built : PoolBuilt s
  /-- "0 ≤ block_index < M at all times" (10_state.md R22). -/
  index : s.i0 < s.cfg.m ∧ s.i1 < s.cfg.m
  /-- `O[c] <= N` (10_state.md R23 (a)). -/
  offset : s.o0 ≤ s.cfg.n ∧ s.o1 ≤ s.cfg.n
  /-- `PH` is one of the six codes (10_state.md R31). -/
  phase : s.ph.toNat ≤ 5
  /-- `J <= KB <= N`, whatever the phase. -/
  span : s.j ≤ s.kb ∧ s.kb ≤ s.cfg.n
  /-- `REM` and `WR` fit `CNTW` bits (00_scope.md R12). -/
  counts : s.rem < 2 ^ 28 ∧ s.wr < 2 ^ 28
  /-- Between commands nothing is owed and a batch can start. -/
  idle : s.ph = phIdle → s.rem = 0 ∧ s.o0 < s.cfg.n ∧ s.o1 < s.cfg.n
  /-- At a batch start `O[c] < N` (10_state.md R23 (b)) and `REM >= 1` (41_batch_sequencer.md R122). -/
  bset : s.ph = phBset → 1 ≤ s.rem ∧ s.o0 < s.cfg.n ∧ s.o1 < s.cfg.n ∧ s.wr + s.rem < 2 ^ 28
  /-- Inside a batch, and after its last sample: `KB` is the batch length (41_batch_sequencer.md R121), and
  `(WR - J) + REM` is the command's count (10_state.md R30), which fits its field. -/
  batch : s.ph = phMix ∨ s.ph = phAdv →
    s.kb = batchLength s ∧ 1 ≤ s.kb ∧ s.j ≤ s.wr ∧ (s.wr - s.j) + s.rem < 2 ^ 28
  /-- `J = KB` at `ADV` (10_state.md R30). -/
  adv : s.ph = phAdv → s.j = s.kb
  /-- At the reseed tests `WR + REM` is the command's count. -/
  rs : s.ph = phRs0 ∨ s.ph = phRs1 → s.wr + s.rem < 2 ^ 28
  /-- Cursor 0 has passed its test. -/
  rs1 : s.ph = phRs1 → s.o0 < s.cfg.m

/-! ### What a history says -/

/-- Whether every event is a mono output, if it is an output (20_memory.md R62). -/
def Event.mono : Event → Bool
  | .out _ l r => decide (l = r)
  | .cmd _ => true
  | .poolRd _ _ _ => true
  | .drawn _ _ => true
  | .done => true
  | .reset => true

/-- The mono invariant over a history (20_memory.md R62). -/
def Mono (hist : List Event) : Prop := ∀ e ∈ hist, e.mono = true

/-- The index the next output sample must have, and whether all so far had theirs: 0, 1, 2, … from each command on
(20_memory.md R61, R63). -/
def orderStep (acc : Nat × Bool) : Event → Nat × Bool
  | .cmd _ => (0, acc.2)
  | .reset => (0, acc.2)
  | .out n _ _ => (n + 1, acc.2 && decide (n = acc.1))
  | .poolRd _ _ _ => acc
  | .drawn _ _ => acc
  | .done => acc

/-- Whether an output sample was delivered since the last reset, given whether one was before the event. -/
def sampledStep (acc : Bool) : Event → Bool
  | .reset => false
  | .out _ _ _ => true
  | .cmd _ => acc
  | .poolRd _ _ _ => acc
  | .drawn _ _ => acc
  | .done => acc

/-- Whether an output sample was delivered since the last reset. -/
def sampledSinceReset (hist : List Event) : Bool := hist.foldl sampledStep false

/-- The registers and the history agree on the command that runs (10_state.md R30, 20_memory.md R63). -/
structure Progress (s : State) : Prop where
  /-- Samples left in index order, none skipped, and `WR` is the index of the next. -/
  order : s.hist.foldl orderStep (0, true) = (s.wr, true)
  /-- `WR` pairs of the current FILL were delivered. -/
  delivered : (currentOut s.hist).length = s.wr
  /-- No command runs between commands. -/
  idle : s.ph = phIdle → currentCount s.hist = none
  /-- `WR + REM = count` at a batch boundary. -/
  boundary : s.ph = phBset ∨ s.ph = phRs0 ∨ s.ph = phRs1 → currentCount s.hist = some (s.wr + s.rem)
  /-- `(WR - J) + REM = count` inside a batch. -/
  batch : s.ph = phMix ∨ s.ph = phAdv → currentCount s.hist = some ((s.wr - s.j) + s.rem)

/-- Once a sample was delivered since reset, both offsets are below `M` between batches (10_state.md R23 (c),
41_batch_sequencer.md R132). -/
def Settled (s : State) : Prop :=
  sampledSinceReset s.hist = true → (s.ph = phIdle ∨ s.ph = phBset) → s.o0 < s.cfg.m ∧ s.o1 < s.cfg.m

/-! ### Two runs side by side -/

/-- Two outcomes of the same kind: next states related by `R`, or the same reason to stop. -/
def SameOutcome (R : State → State → Prop) :
    Host.Outcome State Fault Refusal → Host.Outcome State Fault Refusal → Prop
  | .next s, .next t => R s t
  | .fault f, .fault g => f = g
  | .refused f, .refused g => f = g
  | _, _ => False

/-- Equal but for the event history (10_state.md R36). -/
def SameButHist (s t : State) : Prop := { s with hist := t.hist } = t

/-- Equal but for the transient registers (10_state.md R29, R30). -/
def SameButTransient (s t : State) : Prop :=
  { s with rem := t.rem, kb := t.kb, j := t.j, wr := t.wr, ws := t.ws, wc := t.wc } = t

/-- The block is the same in both; only what the host will do may differ. -/
def SameBlock (s t : State) : Prop := { s with offers := t.offers, waits := t.waits } = t

/-- Equal in all that a FILL leaves behind: the cursors, the history, the reselection source, and what never changes. -/
def SameEffect (s t : State) : Prop :=
  s.cfg = t.cfg ∧ s.pool = t.pool ∧ s.i0 = t.i0 ∧ s.o0 = t.o0 ∧ s.i1 = t.i1 ∧ s.o1 = t.o1 ∧
    s.hist = t.hist ∧ s.draws = t.draws ∧ s.taken = t.taken

/-! ### Named properties of `NUM` (41_batch_sequencer.md R120) -/

/-- The rational value of a finite datum; 0 for the others, which no property speaks of. -/
def Datum.value : Datum → Rat
  | .fin neg num den => (if neg then -1 else 1) * ((num : Rat) / (den : Rat))
  | .nan => 0
  | .inf _ => 0

/-- The value of a binary32 pattern. -/
def value32 (x : F32) : Rat := Datum.value (binary32.read x.toNat)

/-- The value of a weight, read as binary64. DESIGN CHOICE (log 6): the spec leaves the weight format of a `NUM` other
than `REF64` open (10_state.md R30); the named properties below read the weights of every `NUM` as binary64. -/
def value64 (w : Weight) : Rat := Datum.value (binary64.read w.toNat)

/-- Whether a weight is finite, read as binary64 (DESIGN CHOICE, log 6, as for `value64`). -/
def isFinite64 (w : Weight) : Bool := (binary64.read w.toNat).isFinite

/-- Whether a binary32 pattern is normal: finite, with a non-zero exponent field. -/
def isNormal32 (x : F32) : Bool :=
  isFinite32 x && decide (x.toNat / 2 ^ 23 % 2 ^ 8 ≠ 0)

/-- `+0` in the weight format, as a binary64 pattern: for a `NUM` other than `REF64` a DESIGN CHOICE (log 6). -/
def weightZero : Weight := 0#64

/-- `1` in the weight format, as a binary64 pattern: for a `NUM` other than `REF64` a DESIGN CHOICE (log 6). -/
def weightOne : Weight := 0x3FF0000000000000#64

/-- `NUM-P2`, zero angle: `NUM.weights(0, N) = (+0, 1)` exactly. -/
def NumP2 (num : Numerics) : Prop := ∀ n, 1 ≤ n → numWeights num 0 n = (weightZero, weightOne)

/-- Two samples are numerically equal numbers: both finite, and the same but for the sign of a zero. -/
def SameNumber (x y : F32) : Prop := isFinite32 x = true ∧ isFinite32 y = true ∧ value32 x = value32 y

/-- `NUM-P3`, unit mix. -/
def NumP3 (num : Numerics) : Prop :=
  ∀ x0 x1, isFinite32 x0 = true → isFinite32 x1 = true → SameNumber (numMix num weightZero x0 weightOne x1) x1

/-- The second weight of `NUM-P4` and `NUM-P5`: a number `c` with `|c| <= 2^-24`. -/
def IsSmallWeight (c : Weight) : Prop := isFinite64 c = true ∧ |value64 c| ≤ 1 / 2 ^ 24

/-- `NUM-P4`, right angle, at the block length `N`: for even `N`, `NUM.weights(N/2, N) = (1, c)` with a small `c`. -/
def NumP4 (num : Numerics) (n : Nat) : Prop :=
  ∀ h, 1 ≤ h → n = 2 * h → (numWeights num h n).1 = weightOne ∧ IsSmallWeight (numWeights num h n).2

/-- `NUM-P5`, absorbing. -/
def NumP5 (num : Numerics) : Prop :=
  ∀ c x0 x1, IsSmallWeight c → isFinite32 x0 = true → isFinite32 x1 = true →
    (isNormal32 x0 = true → |value32 x1| ≤ |value32 x0| / 2 → numMix num weightOne x0 c x1 = x0) ∧
    (value32 x1 = 0 → SameNumber (numMix num weightOne x0 c x1) x0)

/-- The ideal sample at offset `o` (00_scope.md R14): `sin(π·o/N)·x0 + cos(π·o/N)·x1` over the reals. -/
def IsIdealSample (o n : Nat) (x0 x1 : F32) (r : ℝ) : Prop :=
  r = Real.sin (Real.pi * o / n) * (value32 x0 : ℝ) + Real.cos (Real.pi * o / n) * (value32 x1 : ℝ)

/-- `NUM-P6`, ideal closeness with the bound `eps >= 0`, at the block length `N`: where the ideal result is within
binary32's normal range, the sample is a number, and within `eps · (|x0| + |x1|)` of it. -/
def NumP6 (num : Numerics) (eps : ℝ) (n : Nat) : Prop :=
  0 ≤ eps ∧ ∀ (o : Nat) (x0 x1 : F32) (ideal : ℝ), o < n → isFinite32 x0 = true → isFinite32 x1 = true →
    IsIdealSample o n x0 x1 ideal → (2 : ℝ) ^ (-126 : ℤ) ≤ |ideal| → |ideal| ≤ (2 : ℝ) ^ (128 : ℤ) - (2 : ℝ) ^ (104 : ℤ) →
      let y := numMix num (numWeights num o n).1 x0 (numWeights num o n).2 x1
      isFinite32 y = true ∧ |(value32 y : ℝ) - ideal| ≤ eps * (|(value32 x0 : ℝ)| + |(value32 x1 : ℝ)|)

end Sys2Proof.Machine
end

