-- ==== Sys2Proof/Certificates/Slice0/Obligations.lean ====
section
/-! DEFINITION. What is to be proved of the model. Each docstring names the rule of spec/ it states; a statement that rests on
the model's own choice names its log entry. -/

open Sys2Proof Sys2Proof.Machine

/-! ### Encoding (30_encoding.md) -/

/-- Decoding the code of a well-formed operation gives it back, every count included. -/
def Obligations.DecodeOfEncodeIsTheOperation : Prop :=
  ∀ i : Instr, i.wf = true → decode (encode i) = .ok i

/-- No two codes mean the same operation, and a decoded operation is well-formed. -/
def Obligations.DecodedCodeIsTheEncoding : Prop :=
  ∀ (c : Code) (i : Instr), decode c = .ok i → encode i = c ∧ i.wf = true

/-- R83, R85: a word is FILL exactly under the table's mask and value; any other is reserved; there is no third answer. -/
def Obligations.CommandDecodingFollowsTheMask : Prop :=
  ∀ cw : CmdWord, decode (.cmd cw) =
    if cw &&& 0xF0000000#32 = 0x10000000#32 then .ok (.fill (cw &&& 0x0FFFFFFF#32).toNat)
    else .error (.reservedCommand cw)

/-- R86: the phase code selects the micro-operation; `IDLE`, `0b110` and `0b111` select none. -/
def Obligations.PhaseCodeSelectsTheMicroOperation : Prop :=
  ∀ ph : PhaseCode, decode (.uop ph) =
    if ph = 0b001#3 then .ok .bset else if ph = 0b010#3 then .ok .mix else if ph = 0b011#3 then .ok .adv
    else if ph = 0b100#3 then .ok .rs0 else if ph = 0b101#3 then .ok .rs1 else .error (.noMicroOperation ph)

/-- Every command word of the table of 95_test_vectors.md 2.1 (FILL 1024 is that of 30_encoding.md R88), and two of the
phase codes of R86. -/
def Obligations.SpecWordsDecode : Prop :=
  decode (.cmd 0x10000003#32) = .ok (.fill 3) ∧ decode (.cmd 0x10000000#32) = .ok (.fill 0) ∧
    decode (.cmd 0x10000400#32) = .ok (.fill 1024) ∧ decode (.cmd 0x1FFFFFFF#32) = .ok (.fill 268435455) ∧
    decode (.cmd 0x00000000#32) = .error (.reservedCommand 0x00000000#32) ∧
    decode (.cmd 0x20000003#32) = .error (.reservedCommand 0x20000003#32) ∧
    decode (.cmd 0x90000003#32) = .error (.reservedCommand 0x90000003#32) ∧
    decode (.cmd 0x00000003#32) = .error (.reservedCommand 0x00000003#32) ∧
    decode (.cmd 0xFFFFFFFF#32) = .error (.reservedCommand 0xFFFFFFFF#32) ∧
    decode (.uop 0b011#3) = .ok .adv ∧ decode (.uop 0b101#3) = .ok .rs1

/-! ### The step (00_scope.md R19, 40_fill_command.md R114) -/

/-- In a well-formed configuration with reset low, a step at an idle block runs the command on the port, and a step at a
busy one runs the micro-operation of `PH`. The step adds nothing to `exec`. -/
def Obligations.StepRunsTheDecodedOperation : Prop :=
  ∀ s : State, s.cfg.wf = true → s.rst = false →
    (∀ cw i, s.ph = phIdle → s.port = some cw → decode (.cmd cw) = .ok i → step s = exec i s) ∧
      (∀ i, s.ph ≠ phIdle → decode (.uop s.ph) = .ok i → step s = exec i s)

/-- R101: idle, with no command offered, the block stays as it is (held: log 2). A host that has a word to come, as R217
lets it at any time, comes one step nearer to offering it (log 7). -/
def Obligations.IdleBlockWithoutCommandIsHeld : Prop :=
  ∀ s : State, s.cfg.wf = true → s.rst = false → s.ph = phIdle →
    (s.offers = [] → step s = .next s) ∧
      ∀ delay cw rest, s.offers = ⟨delay + 1, cw⟩ :: rest →
        step s = .next { s with offers := ⟨delay, cw⟩ :: rest }

/-- R100: while `BUSY`, the offered words stay as they are and `FILL` has no effect; at an idle block a FILL word is taken. -/
def Obligations.BusyBlockHoldsTheOfferedCommand : Prop :=
  (∀ s t : State, s.busy = true → s.rst = false → step s = .next t → t.offers = s.offers) ∧
    (∀ (s : State) (count : Nat), s.busy = true → exec (.fill count) s = .next s) ∧
    (∀ (s : State) (cw : CmdWord) (rest : List Offer), s.cfg.wf = true → s.rst = false → s.ph = phIdle →
      s.offers = ⟨0, cw⟩ :: rest → opField cw = 0x1#4 → ∃ t, step s = .next t ∧ t.offers = rest)

/-- R182: the two refusal reasons, and exactly when a step answers each. -/
def Obligations.StepRefusesExactlyAsTheRuleSays : Prop :=
  ∀ (s : State) (r : Refusal), step s = .refused r ↔
    (¬(1 ≤ s.cfg.m ∧ s.cfg.m ≤ s.cfg.n) ∧ r = .illFormedConfig s.cfg.m s.cfg.n) ∨
      ((1 ≤ s.cfg.m ∧ s.cfg.m ≤ s.cfg.n) ∧ s.rst = false ∧ s.ph = phIdle ∧
        ∃ cw, s.port = some cw ∧ opField cw ≠ 0x1#4 ∧ r = .reservedCommand cw)

/-- R181: the three fault reasons, and exactly when a step answers each (the pool reader is asked for cursor 0's sample
first). -/
def Obligations.StepFaultsExactlyAsTheRuleSays : Prop :=
  ∀ (s : State) (f : Fault), step s = .fault f ↔
    s.cfg.wf = true ∧ s.rst = false ∧
      ((6 ≤ s.ph.toNat ∧ f = .phase s.ph) ∨
        (s.ph = phMix ∧ s.j < s.kb ∧ (s.waits = [] ∨ ∃ ws, s.waits = 0 :: ws) ∧
          ((¬(s.i0 < s.cfg.m ∧ s.o0 + s.j < s.cfg.n) ∧ f = .poolIndex s.i0 (s.o0 + s.j)) ∨
            ((s.i0 < s.cfg.m ∧ s.o0 + s.j < s.cfg.n) ∧ ¬(s.i1 < s.cfg.m ∧ s.o1 + s.j < s.cfg.n) ∧
              f = .poolIndex s.i1 (s.o1 + s.j)))) ∨
        (s.ph = phRs0 ∧ s.cfg.m ≤ s.o0 ∧ s.cfg.m ≤ s.nextDraw ∧ f = .drawRange s.nextDraw) ∨
        (s.ph = phRs1 ∧ s.cfg.m ≤ s.o1 ∧ s.cfg.m ≤ s.nextDraw ∧ f = .drawRange s.nextDraw))

/-- R202: reset in any state. It leaves the state of R37, abandons a running FILL without `Done`, keeps what was
delivered, drops a held word, and touches neither the pool nor the reselection source. -/
def Obligations.ResetInAnyStateAbandonsTheFill : Prop :=
  ∀ s : State, s.cfg.wf = true → s.rst = true → ∃ t, step s = .next t ∧
    t.i0 = 0 ∧ t.o0 = s.cfg.n / 2 ∧ t.i1 = 0 ∧ t.o1 = 0 ∧ t.ph = phIdle ∧ t.rem = 0 ∧ t.wr = 0 ∧
    t.hist = s.hist ++ [.reset] ∧ (s.busy = true → s.port ≠ none → t.offers = s.offers.tail) ∧
    t.cfg = s.cfg ∧ t.pool = s.pool ∧ t.draws = s.draws ∧ t.taken = s.taken

/-- R19: a step has exactly one of four outcomes. It is held exactly where the host has sent no command or has not taken an
output sample (R101, R64). A held step leaves the block as it is and is so told from a step that fires, which never does. The
host's interface shows both as a next state (log 2), and the other two outcomes as they are. -/
def Obligations.StepHasExactlyOneOfFourOutcomes : Prop :=
  ∀ s : State,
    (∀ why, outcome s = .held why ↔
      s.cfg.wf = true ∧ s.rst = false ∧
        ((why = .noCommand ∧ s.ph = phIdle ∧ s.port = none) ∨
          (why = .pairNotTaken ∧ s.ph = phMix ∧ s.j < s.kb ∧ ∃ w ws, s.waits = (w + 1) :: ws))) ∧
      (∀ why, outcome s = .held why → ∃ t, step s = .next t ∧ SameBlock s t) ∧
      (∀ t, outcome s = .next t → step s = .next t ∧ ¬ SameBlock s t) ∧
      (∀ f, outcome s = .fault f ↔ step s = .fault f) ∧
      (∀ r, outcome s = .refused r ↔ step s = .refused r)

/-- R114: where each phase goes when a step answers a next state, with reset low and with reset high. -/
def Obligations.PhaseTransitionsFollowTheTable : Prop :=
  ∀ s t : State, step s = .next t →
    (s.rst = true → t.ph = phIdle) ∧
      (s.rst = false →
        (s.ph = phIdle → s.port = none → t = { s with offers := t.offers }) ∧
        (∀ cw, s.ph = phIdle → s.port = some cw →
          t.ph = if countField cw = 0#28 then phIdle else phBset) ∧
        (s.ph = phBset → t.ph = phMix) ∧
        (s.ph = phMix → t.ph = if s.j < s.kb then phMix else phAdv) ∧
        (s.ph = phAdv → t.ph = phRs0) ∧
        (s.ph = phRs0 → t.ph = phRs1) ∧
        (s.ph = phRs1 → t.ph = if s.rem = 0 then phIdle else phBset))

/-! ### What each operation does -/

/-- R102: the acceptance step of `FILL count`. (That the word leaves the host's port is
BusyBlockHoldsTheOfferedCommand's third clause.) -/
def Obligations.FillIsAccepted : Prop :=
  ∀ (s : State) (count : Nat), s.ph = phIdle → ∃ port,
    exec (.fill count) s = .next
      (if count = 0 then
        { s with rem := 0, wr := 0, offers := port, hist := s.hist ++ [.cmd 0, .done] }
      else
        { s with rem := count, wr := 0, offers := port, hist := s.hist ++ [.cmd count], ph := phBset })

/-- R104: `FILL 0` completes in its one step: no weights, no pool read, no output, no draw, no reseed test. -/
def Obligations.FillZeroCompletesAtOnce : Prop :=
  ∀ s : State, s.cfg.wf = true → s.rst = false → s.ph = phIdle → s.port = some 0x10000000#32 → ∃ port,
    step s = .next { s with rem := 0, wr := 0, offers := port, hist := s.hist ++ [.cmd 0, .done] }

/-- R121: the batch length is the largest count that keeps both cursors within their blocks and the request. -/
def Obligations.BatchLengthIsTheLargest : Prop :=
  ∀ s : State, s.o0 ≤ s.cfg.n → s.o1 ≤ s.cfg.n → ∀ k : Nat,
    k ≤ batchLength s ↔ k ≤ s.rem ∧ s.o0 + k ≤ s.cfg.n ∧ s.o1 + k ≤ s.cfg.n

/-- R122: `BSET`. -/
def Obligations.BsetSetsUpTheBatch : Prop :=
  ∀ s : State, s.ph = phBset →
    exec .bset s = .next { s with
      ws := (numWeights s.cfg.num s.o0 s.cfg.n).1
      wc := (numWeights s.cfg.num s.o0 s.cfg.n).2
      kb := min s.rem (min (s.cfg.n - s.o0) (s.cfg.n - s.o1))
      j := 0
      ph := phMix }

/-- R125: `MIX`, where the host takes the pair, delivers the weighted sum of the two cursors' samples to both channels, or it
leaves the batch. -/
def Obligations.MixDeliversOneSampleOrLeavesTheBatch : Prop :=
  ∀ s : State, s.ph = phMix →
    (s.j < s.kb → (s.waits = [] ∨ ∃ ws, s.waits = 0 :: ws) →
      s.i0 < s.cfg.m → s.o0 + s.j < s.cfg.n → s.i1 < s.cfg.m → s.o1 + s.j < s.cfg.n →
      let x0 := s.sample s.i0 (s.o0 + s.j)
      let x1 := s.sample s.i1 (s.o1 + s.j)
      let y := numMix s.cfg.num s.ws x0 s.wc x1
      ∃ hostDelays, exec .mix s = .next { s with
        hist := s.hist ++ [.poolRd s.i0 (s.o0 + s.j) x0, .poolRd s.i1 (s.o1 + s.j) x1, .out s.wr y y]
        j := s.j + 1
        wr := s.wr + 1
        waits := hostDelays }) ∧
      (s.kb ≤ s.j → exec .mix s = .next { s with ph := phAdv })

/-- R64: a pair the host has not taken holds `MIX`; nothing of the block changes (log 8). -/
def Obligations.MixIsHeldUntilThePairIsTaken : Prop :=
  ∀ (s : State) (w : Nat) (ws : List Nat), s.ph = phMix → s.j < s.kb → s.waits = (w + 1) :: ws →
    exec .mix s = .next { s with waits := w :: ws }

/-- R130: `ADV`. -/
def Obligations.AdvAdvancesBothCursors : Prop :=
  ∀ s : State, s.ph = phAdv →
    exec .adv s = .next { s with
      o0 := s.o0 + s.kb, o1 := s.o1 + s.kb, rem := s.rem - s.kb, ph := phRs0 }

/-- R141: `RS0` compares with the block COUNT `M`, and reseeds with the value drawn, or leaves the cursor as it is.
`s.nextDraw` is the value the reselection source yields next, whichever it is (R146). -/
def Obligations.RsZeroReseedsCursorZero : Prop :=
  ∀ s : State, s.ph = phRs0 →
    (s.cfg.m ≤ s.o0 → s.nextDraw < s.cfg.m →
      exec .rs0 s = .next { s with
        o0 := 0, i0 := s.nextDraw, ph := phRs1, hist := s.hist ++ [.drawn .c0 s.nextDraw],
        draws := s.draws.tail, taken := s.taken + 1 }) ∧
      (s.o0 < s.cfg.m → exec .rs0 s = .next { s with ph := phRs1 })

/-- R143: `RS1` reseeds cursor 1 in the same way, then ends the command or starts another batch. -/
def Obligations.RsOneReseedsCursorOneAndDecides : Prop :=
  ∀ s : State, s.ph = phRs1 →
    (s.cfg.m ≤ s.o1 → s.nextDraw < s.cfg.m →
      exec .rs1 s = .next { s with
        o1 := 0
        i1 := s.nextDraw
        ph := if s.rem = 0 then phIdle else phBset
        hist := s.hist ++ .drawn .c1 s.nextDraw :: (if s.rem = 0 then [.done] else [])
        draws := s.draws.tail
        taken := s.taken + 1 }) ∧
      (s.o1 < s.cfg.m →
        exec .rs1 s = .next { s with
          ph := if s.rem = 0 then phIdle else phBset
          hist := s.hist ++ (if s.rem = 0 then [.done] else []) })

/-! ### Frames -/

/-- The frame of `FILL`: of the registers only `REM`, `WR` and `PH` change; the word leaves the port. -/
def Obligations.FillFrame : Prop :=
  ∀ (s t : State) (count : Nat), exec (.fill count) s = .next t →
    t = { s with rem := t.rem, wr := t.wr, ph := t.ph, hist := t.hist, offers := t.offers } ∧
      s.hist <+: t.hist ∧ ∀ a, Memory.read t.pool a = Memory.read s.pool a

/-- The frames of `BSET`, `ADV` and `MIX`. `MIX` leaves cursors, weights, batch length and pool alone; the history grows. -/
def Obligations.BatchFrame : Prop :=
  ∀ s t : State,
    (exec .bset s = .next t →
      t = { s with ws := t.ws, wc := t.wc, kb := t.kb, j := t.j, ph := t.ph } ∧
        ∀ a, Memory.read t.pool a = Memory.read s.pool a) ∧
      (exec .adv s = .next t →
        t = { s with o0 := t.o0, o1 := t.o1, rem := t.rem, ph := t.ph } ∧
          ∀ a, Memory.read t.pool a = Memory.read s.pool a) ∧
      (exec .mix s = .next t →
        t = { s with j := t.j, wr := t.wr, ph := t.ph, hist := t.hist, waits := t.waits } ∧
          s.hist <+: t.hist ∧ ∀ a, Memory.read t.pool a = Memory.read s.pool a)

/-- The frames of `RS0` and `RS1`: each leaves the other cursor alone. -/
def Obligations.ReseedFrame : Prop :=
  ∀ s t : State,
    (exec .rs0 s = .next t →
      t = { s with i0 := t.i0, o0 := t.o0, ph := t.ph, hist := t.hist, draws := t.draws, taken := t.taken } ∧
        s.hist <+: t.hist ∧ ∀ a, Memory.read t.pool a = Memory.read s.pool a) ∧
      (exec .rs1 s = .next t →
        t = { s with i1 := t.i1, o1 := t.o1, ph := t.ph, hist := t.hist, draws := t.draws, taken := t.taken } ∧
          s.hist <+: t.hist ∧ ∀ a, Memory.read t.pool a = Memory.read s.pool a)

/-! ### Whole-machine rules -/

/-- R51: no step, reset included, changes a pool sample or the configuration. -/
def Obligations.PoolIsNeverWritten : Prop :=
  ∀ s t : State, step s = .next t →
    t.cfg = s.cfg ∧ t.pool = s.pool ∧ ∀ i j, t.sample i j = s.sample i j

/-- R36: a step only appends to the history: what was delivered stays delivered. -/
def Obligations.HistoryOnlyGrows : Prop :=
  ∀ s t : State, step s = .next t → s.hist <+: t.hist

/-- R118: the weight pair changes only at a batch boundary (and at reset). -/
def Obligations.WeightsAreFixedWithinABatch : Prop :=
  ∀ s t : State, step s = .next t → s.rst = false → s.ph ≠ phBset → t.ws = s.ws ∧ t.wc = s.wc

/-- R21, last column: which phases write which cursor register. -/
def Obligations.CursorRegistersHaveTheirWriters : Prop :=
  ∀ s t : State, step s = .next t → s.rst = false →
    (t.i0 ≠ s.i0 → s.ph = phRs0) ∧ (t.o0 ≠ s.o0 → s.ph = phAdv ∨ s.ph = phRs0) ∧
      (t.i1 ≠ s.i1 → s.ph = phRs1) ∧ (t.o1 ≠ s.o1 → s.ph = phAdv ∨ s.ph = phRs1)

/-- R36: no rule reads the history: states equal but for it step alike. -/
def Obligations.HistoryIsNeverRead : Prop :=
  ∀ s t : State, SameButHist s t → SameOutcome SameButHist (step s) (step t)

/-- R29: none of the transient registers is read when `PH = IDLE`: states equal but for them step alike, and after a
command is accepted and its batch set up they are one state. -/
def Obligations.TransientRegistersAreDeadAtIdle : Prop :=
  ∀ s t : State, SameButTransient s t → s.ph = phIdle →
    SameOutcome SameButTransient (step s) (step t) ∧
      ∀ cw, s.cfg.wf = true → s.rst = false → s.port = some cw → opField cw = 0x1#4 →
        countField cw ≠ 0#28 → ∃ u, Sys2Proof.core.run 2 s = .next u ∧ Sys2Proof.core.run 2 t = .next u

/-! ### Reset and invariants -/

/-- R25, R37: the state after reset, where the spec gives a value. -/
def Obligations.LaunchStateIsTheResetTable : Prop :=
  ∀ (cfg : Config) (pool : Memory), ∃ s, s = State.launch cfg pool ∧ s.cfg = cfg ∧ s.pool = pool ∧
    s.i0 = 0 ∧ s.i1 = 0 ∧ s.o0 = cfg.n / 2 ∧ s.o1 = 0 ∧ s.ph = phIdle ∧ s.rem = 0 ∧ s.wr = 0 ∧
    s.busy = false ∧ s.hist = [.reset]

/-- The invariants hold at every launch in a well-formed configuration, and at `State.reset` (whose configuration and
empty pool are the model's choice: logs 1, 3). That `J <= KB <= N` at the launch is the model's choice too: the spec
gives `KB` and `J` no value there, log 5 sets both to 0. -/
def Obligations.LaunchMeetsTheInvariants : Prop :=
  (∀ (cfg : Config) (pool : Memory), cfg.wf = true → PoolBuilt (State.launch cfg pool) →
    Inv (State.launch cfg pool) ∧ Progress (State.launch cfg pool) ∧ Settled (State.launch cfg pool) ∧
      Mono (State.launch cfg pool).hist) ∧
    Inv State.reset ∧ Progress State.reset

/-- The register invariant (R22, R23 (a) and (b), R30, R31, and the pool's one form) is kept by every step. Its clause
`J <= KB <= N` is R30's inside a batch; that an applied reset keeps it is the model's choice, `KB = J = 0` (log 5). -/
def Obligations.EveryStepKeepsTheRegisterInvariant : Prop :=
  ∀ s t : State, Inv s → step s = .next t → Inv t

/-- The registers and the history agree on the command that runs (R30), and every step keeps it so. -/
def Obligations.EveryStepKeepsTheProgressOfTheCommand : Prop :=
  ∀ s t : State, Inv s → Progress s → step s = .next t → Progress t

/-- R23 (c): once a sample was delivered since reset, both offsets are below `M` between batches, and every step keeps
it so. -/
def Obligations.EveryStepKeepsOffsetsSettled : Prop :=
  ∀ s t : State, Inv s → Settled s → step s = .next t → Settled t

/-- R62: every pair delivered has the same pattern on both channels; every step keeps it so. -/
def Obligations.EveryStepKeepsTheOutputMono : Prop :=
  ∀ s t : State, Mono s.hist → step s = .next t → Mono t.hist

/-- R54, R175, R208, R216: under the invariant and `DrawsInRange` no step faults, the next state meets `DrawsInRange`
again, and so `NoFault` holds of the run. With a host that obeys no step is refused either, and the host's duty holds
again at the next state: no word is on the port while a FILL runs, and the source's values are in range (the host's words as a
list are log 7's). -/
def Obligations.NoStepFaultsUnderThePremises : Prop :=
  ∀ s : State, Inv s → DrawsInRange s →
    (∀ f, step s ≠ .fault f) ∧ (∀ t, step s = .next t → DrawsInRange t) ∧ NoFault s ∧
      (HostObeys s → ∃ t, step s = .next t ∧ HostObeys t)

/-- R63: a FILL that completes has delivered exactly its count, in index order; `FILL 0` delivers nothing. -/
def Obligations.CompletedFillDeliveredItsCount : Prop :=
  (∀ s t : State, Inv s → Progress s → s.rst = false → s.busy = true → step s = .next t → t.ph = phIdle →
    ∃ count, currentCount s.hist = some count ∧ (currentOut t.hist).length = count ∧
      t.hist.foldl orderStep (0, true) = (count, true)) ∧
    ∀ s : State, Inv s → s.rst = false → s.ph = phIdle → s.port = some 0x10000000#32 →
      ∃ t, step s = .next t ∧ t.ph = phIdle ∧ (currentOut t.hist).length = 0

/-- R145: after both tests, in any configuration with `M >= 1`, both offsets are below `M`. -/
def Obligations.OffsetsAreBelowMAfterBothTests : Prop :=
  ∀ s u t : State, 1 ≤ s.cfg.m → s.ph = phRs0 → exec .rs0 s = .next u → exec .rs1 u = .next t →
    t.o0 < s.cfg.m ∧ t.o1 < s.cfg.m

/-- R131: after `ADV` both offsets are within the block, and one is at its end unless the count cut the batch short. -/
def Obligations.AdvReachesABlockEndOrTheCount : Prop :=
  ∀ s t : State, Inv s → s.ph = phAdv → exec .adv s = .next t →
    t.o0 ≤ t.cfg.n ∧ t.o1 ≤ t.cfg.n ∧ (t.o0 = t.cfg.n ∨ t.o1 = t.cfg.n ∨ t.rem = 0)

/-- R12: no register overflows its width. -/
def Obligations.RegistersFitTheirWidths : Prop :=
  ∀ s : State, Inv s →
    s.i0 < 2 ^ s.cfg.indexWidth ∧ s.i1 < 2 ^ s.cfg.indexWidth ∧
      s.o0 < 2 ^ s.cfg.offsetWidth ∧ s.o1 < 2 ^ s.cfg.offsetWidth ∧
      s.kb < 2 ^ s.cfg.offsetWidth ∧ s.j < 2 ^ s.cfg.offsetWidth ∧
      s.rem < 2 ^ Config.countWidth ∧ s.wr < 2 ^ Config.countWidth

/-! ### The pool (20_memory.md, 43_pool_construction.md) -/

/-- R57: linear addresses are below `M * N`, and two samples never share one. R55: a pool read changes nothing but the
history, and reading again gives the same value. -/
def Obligations.PoolAddressesAreDistinctAndReadsRepeat : Prop :=
  (∀ m n i j i' j' : Nat, i < m → j < n → j' < n →
    linearAddress n i j < m * n ∧ (linearAddress n i j = linearAddress n i' j' → i = i' ∧ j = j')) ∧
    ∀ (s t : State) (i j : Nat) (v : F32), poolRead s i j = .ok (v, t) →
      t = { s with hist := s.hist ++ [.poolRd i j v] } ∧ v = s.sample i j ∧ ∃ u, poolRead t i j = .ok (v, u)

/-- R52, R166: a pool made of `M` blocks of `N` samples holds every sample at its place, and is `PoolBuilt`. -/
def Obligations.PoolOfBlocksHoldsEverySample : Prop :=
  ∀ (cfg : Config) (blocks : List (List F32)), blocks.length = cfg.m → (∀ b ∈ blocks, b.length = cfg.n) →
    PoolBuilt (State.launch cfg (Memory.ofBlocks blocks)) ∧
      ∀ i j, i < cfg.m → j < cfg.n →
        some ((State.launch cfg (Memory.ofBlocks blocks)).sample i j) = blocks[i]?.bind (·[j]?)

/-! ### The whole command (40_fill_command.md R103, R105, R108, R112; 70_reset_and_hazards.md R212, R221) -/

/-- R108: the small-step run of a FILL has the effect of the big-step rule: the same events in the same order, the same
draws, the same cursors; and it faults where the big-step rule does. The host's delays may be any. -/
def Obligations.SmallStepRunAgreesWithBigStep : Prop :=
  ∀ (s : State) (cw : CmdWord) (count : Nat), Inv s → s.ph = phIdle → s.rst = false →
    s.port = some cw → decode (.cmd cw) = .ok (.fill count) →
    (∀ u, bigFill count count s = some (.ok u) →
      ∃ k t, Sys2Proof.core.run k s = .next t ∧ t.ph = phIdle ∧ SameEffect t u) ∧
      (∀ f, bigFill count count s = some (.error f) → ∃ k, Sys2Proof.core.run k s = .fault f)

/-- R105: in a well-formed configuration a FILL makes at most `count` batches and completes after exactly `count`
samples, both offsets below `M` if it produced any. R19: no run hangs there, from any state and whatever the host's delays. -/
def Obligations.FillCompletesWithinItsCountOfBatches : Prop :=
  (∀ (s : State) (count : Nat), Inv s → DrawsInRange s → s.ph = phIdle →
    ∃ u, bigFill count count s = some (.ok u) ∧ u.rem = 0 ∧ (currentOut u.hist).length = count ∧
      (1 ≤ count → u.o0 < s.cfg.m ∧ u.o1 < s.cfg.m)) ∧
    ∀ s : State, Inv s → DrawsInRange s → ¬ Hangs s

/-- R221: with every pair taken at once, a FILL of `count` samples in `b` batches is idle again after
`1 + count + 5 * b` steps, with the effect of the big-step rule. `b` is the number of batches: the least bound on the
batches under which the big-step rule completes. -/
def Obligations.FillTakesItsNumberOfSteps : Prop :=
  ∀ (s : State) (cw : CmdWord) (rest : List Offer) (count : Nat), Inv s → DrawsInRange s →
    s.ph = phIdle → s.rst = false → s.waits = [] → s.offers = ⟨0, cw⟩ :: rest →
    decode (.cmd cw) = .ok (.fill count) →
    ∃ b u t, bigFill b count s = some (.ok u) ∧ (∀ b' < b, bigFill b' count s = none) ∧ b ≤ count ∧
      Sys2Proof.core.run (1 + count + 5 * b) s = .next t ∧ t.ph = phIdle ∧ SameEffect t u ∧ t.offers = rest ∧
      (currentOut t.hist).length = count

/-- R112: from both offsets 0, a FILL with `M <= count <= N` is one batch at angle 0; both cursors reseed and end at
offset 0, cursor 0 with the earlier draw. -/
def Obligations.SteadyStateIsOneBatchAtAngleZero : Prop :=
  ∀ (s : State) (count : Nat), Inv s → DrawsInRange s → s.o0 = 0 → s.o1 = 0 → s.cfg.m ≤ count → count ≤ s.cfg.n →
    ∃ u, bigFill 1 count s = some (.ok u) ∧ u.o0 = 0 ∧ u.o1 = 0 ∧
      (currentOut u.hist = (List.range count).map fun n =>
        let y := numMix s.cfg.num (numWeights s.cfg.num 0 s.cfg.n).1 (s.sample s.i0 n)
          (numWeights s.cfg.num 0 s.cfg.n).2 (s.sample s.i1 n)
        (y, y)) ∧
      u.taken = s.taken + 2 ∧
      ∀ d0 d1 ds, s.draws = d0 :: d1 :: ds → u.i0 = d0 ∧ u.i1 = d1 ∧ u.draws = ds

/-- R150: a FILL with `M <= count <= N - M + 1` from offsets below `M` is a single batch and ends with both offsets 0. -/
def Obligations.ShortPeriodIsOneBatchEndingAtZero : Prop :=
  ∀ (s : State) (count : Nat), Inv s → DrawsInRange s → s.o0 < s.cfg.m → s.o1 < s.cfg.m →
    s.cfg.m ≤ count → count ≤ s.cfg.n - s.cfg.m + 1 →
    ∃ u, bigFill 1 count s = some (.ok u) ∧ u.rem = 0 ∧ u.o0 = 0 ∧ u.o1 = 0

/-- R151: with `M > N` no cursor ever reseeds. R212: the hang; with cursor 0 at the end of its block, the five
micro-operations come back to `BSET` with `REM`, the cursors and the history unchanged. -/
def Obligations.OversizedPoolCountNeverReseedsAndHangs : Prop :=
  (∀ s t : State, s.cfg.n < s.cfg.m → s.o0 ≤ s.cfg.n → s.o1 ≤ s.cfg.n →
    (exec .rs0 s = .next t ∨ exec .rs1 s = .next t) →
    t.i0 = s.i0 ∧ t.i1 = s.i1 ∧ t.o0 = s.o0 ∧ t.o1 = s.o1 ∧ t.draws = s.draws ∧ t.taken = s.taken) ∧
    ∀ s : State, s.cfg.n < s.cfg.m → s.ph = phBset → s.o0 = s.cfg.n → s.o1 ≤ s.cfg.n → 1 ≤ s.rem →
      ∃ a b c d e, exec .bset s = .next a ∧ exec .mix a = .next b ∧ exec .adv b = .next c ∧ exec .rs0 c = .next d ∧
        exec .rs1 d = .next e ∧ e = { s with ws := e.ws, wc := e.wc, kb := 0, j := 0 }

/-! ### The reference numerics (00_scope.md R13, R16; 41_batch_sequencer.md R119, R120, R126) -/

/-- R13, R16: rounding a number that a binary32 or binary64 pattern denotes gives that pattern. -/
def Obligations.RoundingARepresentableNumberIsExact : Prop :=
  ∀ f : FloatFormat, f = binary32 ∨ f = binary64 →
    ∀ (bits : Nat) (neg : Bool) (num den : Nat), bits < 2 ^ (1 + f.expBits + f.fracBits) →
      f.read bits = .fin neg num den → f.round neg num den = bits

/-- R16: rounding overflows to infinity exactly from half a unit past the largest finite number on. Elsewhere the result is
finite with the sign given, no finite pattern of the format is nearer, and where another number is just as near the
result is the one whose significand is even. -/
def Obligations.RoundingGivesANearestNumber : Prop :=
  ∀ f : FloatFormat, f = binary32 ∨ f = binary64 → ∀ (neg : Bool) (num den : Nat), 0 < den →
    let result := f.round neg num den
    let distance : Nat → Nat → Rat := fun n d => |(n : Rat) / d - (num : Rat) / den|
    if (2 ^ (f.fracBits + 2) - 1) * 2 ^ f.bias * den ≤ num * 2 ^ (f.fracBits + 1) then f.read result = .inf neg
    else
      ∃ n d, f.read result = .fin neg n d ∧
        ∀ bits n' d', f.read bits = .fin false n' d' →
          distance n d ≤ distance n' d' ∧
            (distance n d = distance n' d' → (n : Rat) / d ≠ (n' : Rat) / d' → result % 2 = 0)

/-- R119, for the correctly rounded sine and cosine: each lies between two consecutive partial sums of the model, at every
`x >= 0` and every number of levels. -/
def Obligations.PartialSumsBracketSineAndCosine : Prop :=
  ∀ (num den k : Nat), 0 < den →
    let x : ℝ := (num : ℝ) / den
    let sinSum : Nat → ℝ := fun l => x * ((nestedTaylor num den 1 l).1 : ℝ) / ((nestedTaylor num den 1 l).2 : ℝ)
    let cosSum : Nat → ℝ := fun l => ((nestedTaylor num den 0 l).1 : ℝ) / ((nestedTaylor num den 0 l).2 : ℝ)
    min (sinSum k) (sinSum (k + 1)) ≤ Real.sin x ∧ Real.sin x ≤ max (sinSum k) (sinSum (k + 1)) ∧
      min (cosSum k) (cosSum (k + 1)) ≤ Real.cos x ∧ Real.cos x ≤ max (cosSum k) (cosSum (k + 1))

/-- R119: the table of weights for `N = 8`. -/
def Obligations.ReferenceWeightsOfTheTable : Prop :=
  ref64Weights 0 8 = (0x0000000000000000#64, 0x3FF0000000000000#64) ∧
    ref64Weights 1 8 = (0x3FD87DE2A6AEA963#64, 0x3FED906BCF328D46#64) ∧
    ref64Weights 2 8 = (0x3FE6A09E667F3BCC#64, 0x3FE6A09E667F3BCD#64) ∧
    ref64Weights 3 8 = (0x3FED906BCF328D46#64, 0x3FD87DE2A6AEA964#64) ∧
    ref64Weights 4 8 = (0x3FF0000000000000#64, 0x3C91A62633145C07#64) ∧
    ref64Weights 5 8 = (0x3FED906BCF328D46#64, 0xBFD87DE2A6AEA962#64) ∧
    ref64Weights 6 8 = (0x3FE6A09E667F3BCD#64, 0xBFE6A09E667F3BCC#64) ∧
    ref64Weights 7 8 = (0x3FD87DE2A6AEA965#64, 0xBFED906BCF328D46#64)

/-- R120: `REF64` has NUM-P2, the zero angle. -/
def Obligations.ReferenceNumericsHaveZeroAngle : Prop := NumP2 .ref64

/-- R120: `REF64` has NUM-P3, the unit mix. -/
def Obligations.ReferenceNumericsHaveUnitMix : Prop := NumP3 .ref64

/-- R120: `REF64` has NUM-P4, the right angle, at every block length whose angle `PI64 * N / 2` is in binary64's range
(log 11: beyond it R119 states no result). -/
def Obligations.ReferenceNumericsHaveRightAngle : Prop := ∀ n, n < 2 ^ 1023 → NumP4 .ref64 n

/-- R120: `REF64` has NUM-P5, the absorbing mix. -/
def Obligations.ReferenceNumericsAreAbsorbing : Prop := NumP5 .ref64

/-- R120: `REF64` has NUM-P6, ideal closeness, with the bound `2^-23`, at every block length whose angles are in
binary64's range (log 11: beyond it R119 states no result). -/
def Obligations.ReferenceNumericsAreIdeallyClose : Prop := ∀ n, n < 2 ^ 1022 → NumP6 .ref64 (1 / 2 ^ 23) n

/-- R126: a NaN operand, or zero times infinity, gives a NaN; and the order of the two products does not matter, where
the result is no NaN. -/
def Obligations.ReferenceMixPropagatesNaNInAnyOrder : Prop :=
  (∀ (ws wc : Weight) (x0 x1 : F32),
    (binary64.read ws.toNat = .nan ∨ isNaN32 x0 = true ∨ binary64.read wc.toNat = .nan ∨ isNaN32 x1 = true ∨
      (value64 ws = 0 ∧ isFinite64 ws = true ∧ ∃ neg, binary32.read x0.toNat = .inf neg) ∨
      (value64 wc = 0 ∧ isFinite64 wc = true ∧ ∃ neg, binary32.read x1.toNat = .inf neg)) →
    isNaN32 (ref64Mix ws x0 wc x1) = true) ∧
    ∀ (ws wc : Weight) (x0 x1 : F32), isNaN32 (ref64Mix ws x0 wc x1) = false →
      ref64Mix ws x0 wc x1 = ref64Mix wc x1 ws x0
end

