-- ==== Sys2Proof/Laws/Decode.lean ====
section
/-! SUPPORT. What the decoder and the encoder do, once per format. -/

namespace Sys2Proof

theorem decode_cmd (cw : CmdWord) :
    decode (.cmd cw) =
      if opField cw = 0x1#4 then .ok (.fill (countField cw).toNat) else .error (.reservedCommand cw) := by
  rw [decode, decodeCmd]
  split <;> rename_i h <;> split at h <;> simp_all

theorem opField_encodeFill (count : Nat) : opField (encodeFill count) = 0x1#4 := by
  rw [opField, encodeFill, BitVec.extractLsb'_append_eq_left]

theorem countField_encodeFill (count : Nat) : countField (encodeFill count) = BitVec.ofNat 28 count := by
  rw [countField, encodeFill, BitVec.extractLsb'_append_eq_right]

/-- The mask of the opcode table keeps `OP` and clears `COUNT` (30_encoding.md R83). -/
theorem opMask_eq (cw : CmdWord) : cw &&& 0xF0000000#32 = opField cw ++ 0#28 := by
  have mask : ∀ k : Fin 32, (0xF0000000#32)[k.val] = decide (28 ≤ k.val) := by decide
  ext k hk
  rw [BitVec.getElem_and, mask ⟨k, hk⟩, BitVec.getElem_append]
  by_cases h : k < 28
  · simp [h, show ¬ 28 ≤ k by omega]
  · simp [h, show 28 ≤ k by omega, opField, BitVec.getLsbD_eq_getElem hk]

/-- The value of a command word (30_encoding.md R81). -/
theorem encodeFill_toNat (count : Nat) : (encodeFill count).toNat = 0x10000000 + count % 2 ^ 28 := by
  have h : (BitVec.ofNat 28 count).toNat < 2 ^ 28 := BitVec.isLt _
  rw [encodeFill, BitVec.toNat_append, ← Nat.shiftLeft_add_eq_or_of_lt h]
  simp [Nat.shiftLeft_eq]

/-- A decoded operation is well-formed: its count fits its field. -/
theorem decode_wf {c : Code} {i : Instr} (h : decode c = .ok i) : i.wf = true := by
  cases c with
  | cmd cw =>
    rw [decode_cmd] at h
    split at h <;> cases h
    simpa [Instr.wf] using (countField cw).isLt
  | uop ph =>
    have all : ∀ ph : PhaseCode, ∀ j, decodeUop ph = some j → j.wf = true := by
      intro ph j hj
      rw [decodeUop] at hj
      split at hj <;> cases hj <;> rfl
    rw [decode] at h
    split at h <;> cases h
    exact all ph _ (by assumption)

end Sys2Proof
end

