-- ==== Sys2Proof/Laws/State.lean ====
section
/-! SUPPORT. What each update of the state leaves of each field: one lemma per field and update, so that no proof unfolds an
update. -/

namespace Sys2Proof.Machine

/-! ### Appending an event -/

@[simp] theorem State.log_cfg (s : State) (e : Event) : (s.log e).cfg = s.cfg := rfl
@[simp] theorem State.log_pool (s : State) (e : Event) : (s.log e).pool = s.pool := rfl
@[simp] theorem State.log_i0 (s : State) (e : Event) : (s.log e).i0 = s.i0 := rfl
@[simp] theorem State.log_o0 (s : State) (e : Event) : (s.log e).o0 = s.o0 := rfl
@[simp] theorem State.log_i1 (s : State) (e : Event) : (s.log e).i1 = s.i1 := rfl
@[simp] theorem State.log_o1 (s : State) (e : Event) : (s.log e).o1 = s.o1 := rfl
@[simp] theorem State.log_ph (s : State) (e : Event) : (s.log e).ph = s.ph := rfl
@[simp] theorem State.log_rem (s : State) (e : Event) : (s.log e).rem = s.rem := rfl
@[simp] theorem State.log_kb (s : State) (e : Event) : (s.log e).kb = s.kb := rfl
@[simp] theorem State.log_j (s : State) (e : Event) : (s.log e).j = s.j := rfl
@[simp] theorem State.log_wr (s : State) (e : Event) : (s.log e).wr = s.wr := rfl
@[simp] theorem State.log_ws (s : State) (e : Event) : (s.log e).ws = s.ws := rfl
@[simp] theorem State.log_wc (s : State) (e : Event) : (s.log e).wc = s.wc := rfl
@[simp] theorem State.log_hist (s : State) (e : Event) : (s.log e).hist = s.hist ++ [e] := rfl
@[simp] theorem State.log_offers (s : State) (e : Event) : (s.log e).offers = s.offers := rfl
@[simp] theorem State.log_waits (s : State) (e : Event) : (s.log e).waits = s.waits := rfl
@[simp] theorem State.log_rst (s : State) (e : Event) : (s.log e).rst = s.rst := rfl
@[simp] theorem State.log_draws (s : State) (e : Event) : (s.log e).draws = s.draws := rfl
@[simp] theorem State.log_taken (s : State) (e : Event) : (s.log e).taken = s.taken := rfl

/-! ### `Done()` -/

@[simp] theorem State.fillDone_cfg (s : State) : (fillDone s).cfg = s.cfg := rfl
@[simp] theorem State.fillDone_pool (s : State) : (fillDone s).pool = s.pool := rfl
@[simp] theorem State.fillDone_i0 (s : State) : (fillDone s).i0 = s.i0 := rfl
@[simp] theorem State.fillDone_o0 (s : State) : (fillDone s).o0 = s.o0 := rfl
@[simp] theorem State.fillDone_i1 (s : State) : (fillDone s).i1 = s.i1 := rfl
@[simp] theorem State.fillDone_o1 (s : State) : (fillDone s).o1 = s.o1 := rfl
@[simp] theorem State.fillDone_ph (s : State) : (fillDone s).ph = s.ph := rfl
@[simp] theorem State.fillDone_rem (s : State) : (fillDone s).rem = s.rem := rfl
@[simp] theorem State.fillDone_kb (s : State) : (fillDone s).kb = s.kb := rfl
@[simp] theorem State.fillDone_j (s : State) : (fillDone s).j = s.j := rfl
@[simp] theorem State.fillDone_wr (s : State) : (fillDone s).wr = s.wr := rfl
@[simp] theorem State.fillDone_ws (s : State) : (fillDone s).ws = s.ws := rfl
@[simp] theorem State.fillDone_wc (s : State) : (fillDone s).wc = s.wc := rfl
@[simp] theorem State.fillDone_hist (s : State) : (fillDone s).hist = s.hist ++ [.done] := rfl
@[simp] theorem State.fillDone_offers (s : State) : (fillDone s).offers = s.offers := rfl
@[simp] theorem State.fillDone_waits (s : State) : (fillDone s).waits = s.waits := rfl
@[simp] theorem State.fillDone_rst (s : State) : (fillDone s).rst = s.rst := rfl
@[simp] theorem State.fillDone_draws (s : State) : (fillDone s).draws = s.draws := rfl
@[simp] theorem State.fillDone_taken (s : State) : (fillDone s).taken = s.taken := rfl

/-! ### Delivering a pair -/

@[simp] theorem State.outWrite_cfg (s : State) (l r : F32) : (outWrite s l r).cfg = s.cfg := rfl
@[simp] theorem State.outWrite_pool (s : State) (l r : F32) : (outWrite s l r).pool = s.pool := rfl
@[simp] theorem State.outWrite_i0 (s : State) (l r : F32) : (outWrite s l r).i0 = s.i0 := rfl
@[simp] theorem State.outWrite_o0 (s : State) (l r : F32) : (outWrite s l r).o0 = s.o0 := rfl
@[simp] theorem State.outWrite_i1 (s : State) (l r : F32) : (outWrite s l r).i1 = s.i1 := rfl
@[simp] theorem State.outWrite_o1 (s : State) (l r : F32) : (outWrite s l r).o1 = s.o1 := rfl
@[simp] theorem State.outWrite_ph (s : State) (l r : F32) : (outWrite s l r).ph = s.ph := rfl
@[simp] theorem State.outWrite_rem (s : State) (l r : F32) : (outWrite s l r).rem = s.rem := rfl
@[simp] theorem State.outWrite_kb (s : State) (l r : F32) : (outWrite s l r).kb = s.kb := rfl
@[simp] theorem State.outWrite_j (s : State) (l r : F32) : (outWrite s l r).j = s.j := rfl
@[simp] theorem State.outWrite_wr (s : State) (l r : F32) : (outWrite s l r).wr = s.wr + 1 := rfl
@[simp] theorem State.outWrite_ws (s : State) (l r : F32) : (outWrite s l r).ws = s.ws := rfl
@[simp] theorem State.outWrite_wc (s : State) (l r : F32) : (outWrite s l r).wc = s.wc := rfl
@[simp] theorem State.outWrite_hist (s : State) (l r : F32) : (outWrite s l r).hist = s.hist ++ [.out s.wr l r] := rfl
@[simp] theorem State.outWrite_offers (s : State) (l r : F32) : (outWrite s l r).offers = s.offers := rfl
@[simp] theorem State.outWrite_waits (s : State) (l r : F32) : (outWrite s l r).waits = s.waits := rfl
@[simp] theorem State.outWrite_rst (s : State) (l r : F32) : (outWrite s l r).rst = s.rst := rfl
@[simp] theorem State.outWrite_draws (s : State) (l r : F32) : (outWrite s l r).draws = s.draws := rfl
@[simp] theorem State.outWrite_taken (s : State) (l r : F32) : (outWrite s l r).taken = s.taken := rfl

/-! ### Writing an offset -/

@[simp] theorem State.setOff_cfg (s : State) (c : CursorId) (v : Nat) : (s.setOff c v).cfg = s.cfg := by cases c <;> rfl
@[simp] theorem State.setOff_pool (s : State) (c : CursorId) (v : Nat) : (s.setOff c v).pool = s.pool := by cases c <;> rfl
@[simp] theorem State.setOff_i0 (s : State) (c : CursorId) (v : Nat) : (s.setOff c v).i0 = s.i0 := by cases c <;> rfl
@[simp] theorem State.setOff_o0 (s : State) (c : CursorId) (v : Nat) : (s.setOff c v).o0 = if c = .c0 then v else s.o0 := by cases c <;> rfl
@[simp] theorem State.setOff_i1 (s : State) (c : CursorId) (v : Nat) : (s.setOff c v).i1 = s.i1 := by cases c <;> rfl
@[simp] theorem State.setOff_o1 (s : State) (c : CursorId) (v : Nat) : (s.setOff c v).o1 = if c = .c1 then v else s.o1 := by cases c <;> rfl
@[simp] theorem State.setOff_ph (s : State) (c : CursorId) (v : Nat) : (s.setOff c v).ph = s.ph := by cases c <;> rfl
@[simp] theorem State.setOff_rem (s : State) (c : CursorId) (v : Nat) : (s.setOff c v).rem = s.rem := by cases c <;> rfl
@[simp] theorem State.setOff_kb (s : State) (c : CursorId) (v : Nat) : (s.setOff c v).kb = s.kb := by cases c <;> rfl
@[simp] theorem State.setOff_j (s : State) (c : CursorId) (v : Nat) : (s.setOff c v).j = s.j := by cases c <;> rfl
@[simp] theorem State.setOff_wr (s : State) (c : CursorId) (v : Nat) : (s.setOff c v).wr = s.wr := by cases c <;> rfl
@[simp] theorem State.setOff_ws (s : State) (c : CursorId) (v : Nat) : (s.setOff c v).ws = s.ws := by cases c <;> rfl
@[simp] theorem State.setOff_wc (s : State) (c : CursorId) (v : Nat) : (s.setOff c v).wc = s.wc := by cases c <;> rfl
@[simp] theorem State.setOff_hist (s : State) (c : CursorId) (v : Nat) : (s.setOff c v).hist = s.hist := by cases c <;> rfl
@[simp] theorem State.setOff_offers (s : State) (c : CursorId) (v : Nat) : (s.setOff c v).offers = s.offers := by cases c <;> rfl
@[simp] theorem State.setOff_waits (s : State) (c : CursorId) (v : Nat) : (s.setOff c v).waits = s.waits := by cases c <;> rfl
@[simp] theorem State.setOff_rst (s : State) (c : CursorId) (v : Nat) : (s.setOff c v).rst = s.rst := by cases c <;> rfl
@[simp] theorem State.setOff_draws (s : State) (c : CursorId) (v : Nat) : (s.setOff c v).draws = s.draws := by cases c <;> rfl
@[simp] theorem State.setOff_taken (s : State) (c : CursorId) (v : Nat) : (s.setOff c v).taken = s.taken := by cases c <;> rfl

/-! ### Writing a block index -/

@[simp] theorem State.setIdx_cfg (s : State) (c : CursorId) (v : Nat) : (s.setIdx c v).cfg = s.cfg := by cases c <;> rfl
@[simp] theorem State.setIdx_pool (s : State) (c : CursorId) (v : Nat) : (s.setIdx c v).pool = s.pool := by cases c <;> rfl
@[simp] theorem State.setIdx_i0 (s : State) (c : CursorId) (v : Nat) : (s.setIdx c v).i0 = if c = .c0 then v else s.i0 := by cases c <;> rfl
@[simp] theorem State.setIdx_o0 (s : State) (c : CursorId) (v : Nat) : (s.setIdx c v).o0 = s.o0 := by cases c <;> rfl
@[simp] theorem State.setIdx_i1 (s : State) (c : CursorId) (v : Nat) : (s.setIdx c v).i1 = if c = .c1 then v else s.i1 := by cases c <;> rfl
@[simp] theorem State.setIdx_o1 (s : State) (c : CursorId) (v : Nat) : (s.setIdx c v).o1 = s.o1 := by cases c <;> rfl
@[simp] theorem State.setIdx_ph (s : State) (c : CursorId) (v : Nat) : (s.setIdx c v).ph = s.ph := by cases c <;> rfl
@[simp] theorem State.setIdx_rem (s : State) (c : CursorId) (v : Nat) : (s.setIdx c v).rem = s.rem := by cases c <;> rfl
@[simp] theorem State.setIdx_kb (s : State) (c : CursorId) (v : Nat) : (s.setIdx c v).kb = s.kb := by cases c <;> rfl
@[simp] theorem State.setIdx_j (s : State) (c : CursorId) (v : Nat) : (s.setIdx c v).j = s.j := by cases c <;> rfl
@[simp] theorem State.setIdx_wr (s : State) (c : CursorId) (v : Nat) : (s.setIdx c v).wr = s.wr := by cases c <;> rfl
@[simp] theorem State.setIdx_ws (s : State) (c : CursorId) (v : Nat) : (s.setIdx c v).ws = s.ws := by cases c <;> rfl
@[simp] theorem State.setIdx_wc (s : State) (c : CursorId) (v : Nat) : (s.setIdx c v).wc = s.wc := by cases c <;> rfl
@[simp] theorem State.setIdx_hist (s : State) (c : CursorId) (v : Nat) : (s.setIdx c v).hist = s.hist := by cases c <;> rfl
@[simp] theorem State.setIdx_offers (s : State) (c : CursorId) (v : Nat) : (s.setIdx c v).offers = s.offers := by cases c <;> rfl
@[simp] theorem State.setIdx_waits (s : State) (c : CursorId) (v : Nat) : (s.setIdx c v).waits = s.waits := by cases c <;> rfl
@[simp] theorem State.setIdx_rst (s : State) (c : CursorId) (v : Nat) : (s.setIdx c v).rst = s.rst := by cases c <;> rfl
@[simp] theorem State.setIdx_draws (s : State) (c : CursorId) (v : Nat) : (s.setIdx c v).draws = s.draws := by cases c <;> rfl
@[simp] theorem State.setIdx_taken (s : State) (c : CursorId) (v : Nat) : (s.setIdx c v).taken = s.taken := by cases c <;> rfl

/-! ### The advance of the big-step loop -/

@[simp] theorem State.bigAdvance_cfg (s : State) (k : Nat) : (bigAdvance k s).cfg = s.cfg := rfl
@[simp] theorem State.bigAdvance_pool (s : State) (k : Nat) : (bigAdvance k s).pool = s.pool := rfl
@[simp] theorem State.bigAdvance_i0 (s : State) (k : Nat) : (bigAdvance k s).i0 = s.i0 := rfl
@[simp] theorem State.bigAdvance_o0 (s : State) (k : Nat) : (bigAdvance k s).o0 = s.o0 + k := rfl
@[simp] theorem State.bigAdvance_i1 (s : State) (k : Nat) : (bigAdvance k s).i1 = s.i1 := rfl
@[simp] theorem State.bigAdvance_o1 (s : State) (k : Nat) : (bigAdvance k s).o1 = s.o1 + k := rfl
@[simp] theorem State.bigAdvance_ph (s : State) (k : Nat) : (bigAdvance k s).ph = s.ph := rfl
@[simp] theorem State.bigAdvance_rem (s : State) (k : Nat) : (bigAdvance k s).rem = s.rem - k := rfl
@[simp] theorem State.bigAdvance_kb (s : State) (k : Nat) : (bigAdvance k s).kb = s.kb := rfl
@[simp] theorem State.bigAdvance_j (s : State) (k : Nat) : (bigAdvance k s).j = s.j := rfl
@[simp] theorem State.bigAdvance_wr (s : State) (k : Nat) : (bigAdvance k s).wr = s.wr := rfl
@[simp] theorem State.bigAdvance_ws (s : State) (k : Nat) : (bigAdvance k s).ws = s.ws := rfl
@[simp] theorem State.bigAdvance_wc (s : State) (k : Nat) : (bigAdvance k s).wc = s.wc := rfl
@[simp] theorem State.bigAdvance_hist (s : State) (k : Nat) : (bigAdvance k s).hist = s.hist := rfl
@[simp] theorem State.bigAdvance_offers (s : State) (k : Nat) : (bigAdvance k s).offers = s.offers := rfl
@[simp] theorem State.bigAdvance_waits (s : State) (k : Nat) : (bigAdvance k s).waits = s.waits := rfl
@[simp] theorem State.bigAdvance_rst (s : State) (k : Nat) : (bigAdvance k s).rst = s.rst := rfl
@[simp] theorem State.bigAdvance_draws (s : State) (k : Nat) : (bigAdvance k s).draws = s.draws := rfl
@[simp] theorem State.bigAdvance_taken (s : State) (k : Nat) : (bigAdvance k s).taken = s.taken := rfl

/-! ### Accepting a command, big step -/

@[simp] theorem State.bigStart_cfg (s : State) (count : Nat) : (bigStart count s).cfg = s.cfg := rfl
@[simp] theorem State.bigStart_pool (s : State) (count : Nat) : (bigStart count s).pool = s.pool := rfl
@[simp] theorem State.bigStart_i0 (s : State) (count : Nat) : (bigStart count s).i0 = s.i0 := rfl
@[simp] theorem State.bigStart_o0 (s : State) (count : Nat) : (bigStart count s).o0 = s.o0 := rfl
@[simp] theorem State.bigStart_i1 (s : State) (count : Nat) : (bigStart count s).i1 = s.i1 := rfl
@[simp] theorem State.bigStart_o1 (s : State) (count : Nat) : (bigStart count s).o1 = s.o1 := rfl
@[simp] theorem State.bigStart_ph (s : State) (count : Nat) : (bigStart count s).ph = s.ph := rfl
@[simp] theorem State.bigStart_rem (s : State) (count : Nat) : (bigStart count s).rem = count := rfl
@[simp] theorem State.bigStart_kb (s : State) (count : Nat) : (bigStart count s).kb = s.kb := rfl
@[simp] theorem State.bigStart_j (s : State) (count : Nat) : (bigStart count s).j = s.j := rfl
@[simp] theorem State.bigStart_wr (s : State) (count : Nat) : (bigStart count s).wr = 0 := rfl
@[simp] theorem State.bigStart_ws (s : State) (count : Nat) : (bigStart count s).ws = s.ws := rfl
@[simp] theorem State.bigStart_wc (s : State) (count : Nat) : (bigStart count s).wc = s.wc := rfl
@[simp] theorem State.bigStart_hist (s : State) (count : Nat) : (bigStart count s).hist = s.hist ++ [.cmd count] := rfl
@[simp] theorem State.bigStart_offers (s : State) (count : Nat) : (bigStart count s).offers = s.offers := rfl
@[simp] theorem State.bigStart_waits (s : State) (count : Nat) : (bigStart count s).waits = s.waits := rfl
@[simp] theorem State.bigStart_rst (s : State) (count : Nat) : (bigStart count s).rst = s.rst := rfl
@[simp] theorem State.bigStart_draws (s : State) (count : Nat) : (bigStart count s).draws = s.draws := rfl
@[simp] theorem State.bigStart_taken (s : State) (count : Nat) : (bigStart count s).taken = s.taken := rfl

/-! ### The launch -/

@[simp] theorem State.launch_cfg (cfg : Config) (pool : Memory) : (State.launch cfg pool).cfg = cfg := rfl
@[simp] theorem State.launch_pool (cfg : Config) (pool : Memory) : (State.launch cfg pool).pool = pool := rfl
@[simp] theorem State.launch_i0 (cfg : Config) (pool : Memory) : (State.launch cfg pool).i0 = 0 := rfl
@[simp] theorem State.launch_o0 (cfg : Config) (pool : Memory) : (State.launch cfg pool).o0 = cfg.n / 2 := rfl
@[simp] theorem State.launch_i1 (cfg : Config) (pool : Memory) : (State.launch cfg pool).i1 = 0 := rfl
@[simp] theorem State.launch_o1 (cfg : Config) (pool : Memory) : (State.launch cfg pool).o1 = 0 := rfl
@[simp] theorem State.launch_ph (cfg : Config) (pool : Memory) : (State.launch cfg pool).ph = phIdle := rfl
@[simp] theorem State.launch_rem (cfg : Config) (pool : Memory) : (State.launch cfg pool).rem = 0 := rfl
@[simp] theorem State.launch_kb (cfg : Config) (pool : Memory) : (State.launch cfg pool).kb = 0 := rfl
@[simp] theorem State.launch_j (cfg : Config) (pool : Memory) : (State.launch cfg pool).j = 0 := rfl
@[simp] theorem State.launch_wr (cfg : Config) (pool : Memory) : (State.launch cfg pool).wr = 0 := rfl
@[simp] theorem State.launch_ws (cfg : Config) (pool : Memory) : (State.launch cfg pool).ws = 0#64 := rfl
@[simp] theorem State.launch_wc (cfg : Config) (pool : Memory) : (State.launch cfg pool).wc = 0#64 := rfl
@[simp] theorem State.launch_hist (cfg : Config) (pool : Memory) : (State.launch cfg pool).hist = [.reset] := rfl
@[simp] theorem State.launch_offers (cfg : Config) (pool : Memory) : (State.launch cfg pool).offers = [] := rfl
@[simp] theorem State.launch_waits (cfg : Config) (pool : Memory) : (State.launch cfg pool).waits = [] := rfl
@[simp] theorem State.launch_rst (cfg : Config) (pool : Memory) : (State.launch cfg pool).rst = false := rfl
@[simp] theorem State.launch_draws (cfg : Config) (pool : Memory) : (State.launch cfg pool).draws = [] := rfl
@[simp] theorem State.launch_taken (cfg : Config) (pool : Memory) : (State.launch cfg pool).taken = 0 := rfl

/-! ### Applying reset -/

@[simp] theorem State.applyReset_cfg (s : State) : (applyReset s).cfg = s.cfg := rfl
@[simp] theorem State.applyReset_pool (s : State) : (applyReset s).pool = s.pool := rfl
@[simp] theorem State.applyReset_i0 (s : State) : (applyReset s).i0 = 0 := rfl
@[simp] theorem State.applyReset_o0 (s : State) : (applyReset s).o0 = s.cfg.n / 2 := rfl
@[simp] theorem State.applyReset_i1 (s : State) : (applyReset s).i1 = 0 := rfl
@[simp] theorem State.applyReset_o1 (s : State) : (applyReset s).o1 = 0 := rfl
@[simp] theorem State.applyReset_ph (s : State) : (applyReset s).ph = phIdle := rfl
@[simp] theorem State.applyReset_rem (s : State) : (applyReset s).rem = 0 := rfl
@[simp] theorem State.applyReset_kb (s : State) : (applyReset s).kb = 0 := rfl
@[simp] theorem State.applyReset_j (s : State) : (applyReset s).j = 0 := rfl
@[simp] theorem State.applyReset_wr (s : State) : (applyReset s).wr = 0 := rfl
@[simp] theorem State.applyReset_ws (s : State) : (applyReset s).ws = 0#64 := rfl
@[simp] theorem State.applyReset_wc (s : State) : (applyReset s).wc = 0#64 := rfl
@[simp] theorem State.applyReset_hist (s : State) : (applyReset s).hist = s.hist ++ [.reset] := rfl
@[simp] theorem State.applyReset_offers (s : State) : (applyReset s).offers = if s.busy then withoutPortWord s.offers else s.offers := rfl
@[simp] theorem State.applyReset_waits (s : State) : (applyReset s).waits = s.waits := rfl
@[simp] theorem State.applyReset_rst (s : State) : (applyReset s).rst = false := rfl
@[simp] theorem State.applyReset_draws (s : State) : (applyReset s).draws = s.draws := rfl
@[simp] theorem State.applyReset_taken (s : State) : (applyReset s).taken = s.taken := rfl

/-! ### The host's wait -/

@[simp] theorem State.hostWaits_cfg (why : HeldBy) (s : State) : (hostWaits why s).cfg = s.cfg := rfl
@[simp] theorem State.hostWaits_pool (why : HeldBy) (s : State) : (hostWaits why s).pool = s.pool := rfl
@[simp] theorem State.hostWaits_i0 (why : HeldBy) (s : State) : (hostWaits why s).i0 = s.i0 := rfl
@[simp] theorem State.hostWaits_o0 (why : HeldBy) (s : State) : (hostWaits why s).o0 = s.o0 := rfl
@[simp] theorem State.hostWaits_i1 (why : HeldBy) (s : State) : (hostWaits why s).i1 = s.i1 := rfl
@[simp] theorem State.hostWaits_o1 (why : HeldBy) (s : State) : (hostWaits why s).o1 = s.o1 := rfl
@[simp] theorem State.hostWaits_ph (why : HeldBy) (s : State) : (hostWaits why s).ph = s.ph := rfl
@[simp] theorem State.hostWaits_rem (why : HeldBy) (s : State) : (hostWaits why s).rem = s.rem := rfl
@[simp] theorem State.hostWaits_kb (why : HeldBy) (s : State) : (hostWaits why s).kb = s.kb := rfl
@[simp] theorem State.hostWaits_j (why : HeldBy) (s : State) : (hostWaits why s).j = s.j := rfl
@[simp] theorem State.hostWaits_wr (why : HeldBy) (s : State) : (hostWaits why s).wr = s.wr := rfl
@[simp] theorem State.hostWaits_ws (why : HeldBy) (s : State) : (hostWaits why s).ws = s.ws := rfl
@[simp] theorem State.hostWaits_wc (why : HeldBy) (s : State) : (hostWaits why s).wc = s.wc := rfl
@[simp] theorem State.hostWaits_hist (why : HeldBy) (s : State) : (hostWaits why s).hist = s.hist := rfl
@[simp] theorem State.hostWaits_rst (why : HeldBy) (s : State) : (hostWaits why s).rst = s.rst := rfl
@[simp] theorem State.hostWaits_draws (why : HeldBy) (s : State) : (hostWaits why s).draws = s.draws := rfl
@[simp] theorem State.hostWaits_taken (why : HeldBy) (s : State) : (hostWaits why s).taken = s.taken := rfl
@[simp] theorem State.hostWaits_noCommand_offers (s : State) :
    (hostWaits .noCommand s).offers = oneStepNearer s.offers := rfl
@[simp] theorem State.hostWaits_noCommand_waits (s : State) : (hostWaits .noCommand s).waits = s.waits := rfl
@[simp] theorem State.hostWaits_pairNotTaken_offers (s : State) : (hostWaits .pairNotTaken s).offers = s.offers := rfl
@[simp] theorem State.hostWaits_pairNotTaken_waits (s : State) :
    (hostWaits .pairNotTaken s).waits = pairOneStepNearer s.waits := rfl

@[simp] theorem pairOneStepNearer_later (w : Nat) (ws : List Nat) : pairOneStepNearer ((w + 1) :: ws) = w :: ws := rfl
@[simp] theorem pairOneStepNearer_now (ws : List Nat) : pairOneStepNearer (0 :: ws) = 0 :: ws := rfl
@[simp] theorem pairOneStepNearer_nil : pairOneStepNearer [] = [] := rfl

/-- When the host keeps `MIX` waiting (20_memory.md R64). -/
theorem State.pairNotTaken_iff (s : State) :
    s.pairNotTaken = true ↔ s.ph = phMix ∧ s.j < s.kb ∧ ∃ w ws, s.waits = (w + 1) :: ws := by
  rw [State.pairNotTaken]
  rcases s.waits with _ | ⟨_ | w, ws⟩ <;> simp

theorem State.pairNotTaken_of_ph_ne {s : State} (h : s.ph ≠ phMix) : s.pairNotTaken = false := by
  simp [State.pairNotTaken, h]

/-! ### The command port -/

theorem State.port_eq_none {s : State} (h : s.port = none) :
    s.offers = [] ∨ ∃ d cw rest, s.offers = ⟨d + 1, cw⟩ :: rest := by
  rw [State.port] at h
  split at h
  · cases h
  · next d cw rest ho => exact .inr ⟨d, cw, rest, ho⟩
  · next ho => exact .inl ho

theorem State.port_eq_some {s : State} {cw : CmdWord} (h : s.port = some cw) :
    ∃ rest, s.offers = ⟨0, cw⟩ :: rest := by
  rw [State.port] at h
  split at h
  · next w rest ho => cases h; exact ⟨rest, ho⟩
  · cases h
  · cases h

/-- The word on the port is the first of the host's words, and it leaves the rest behind. -/
theorem State.port_of_offers {s : State} {cw : CmdWord} {rest : List Offer} (h : s.offers = ⟨0, cw⟩ :: rest) :
    s.port = some cw := by rw [State.port, h]

theorem State.port_of_waiting {s : State} {d : Nat} {cw : CmdWord} {rest : List Offer}
    (h : s.offers = ⟨d + 1, cw⟩ :: rest) : s.port = none := by rw [State.port, h]

theorem State.port_of_nil {s : State} (h : s.offers = []) : s.port = none := by rw [State.port, h]

@[simp] theorem withoutPortWord_port (cw : CmdWord) (rest : List Offer) : withoutPortWord (⟨0, cw⟩ :: rest) = rest := rfl
@[simp] theorem withoutPortWord_waiting (d : Nat) (cw : CmdWord) (rest : List Offer) :
    withoutPortWord (⟨d + 1, cw⟩ :: rest) = ⟨d + 1, cw⟩ :: rest := rfl
@[simp] theorem withoutPortWord_nil : withoutPortWord [] = [] := rfl

@[simp] theorem oneStepNearer_port (cw : CmdWord) (rest : List Offer) :
    oneStepNearer (⟨0, cw⟩ :: rest) = ⟨0, cw⟩ :: rest := rfl
@[simp] theorem oneStepNearer_waiting (d : Nat) (cw : CmdWord) (rest : List Offer) :
    oneStepNearer (⟨d + 1, cw⟩ :: rest) = ⟨d, cw⟩ :: rest := rfl
@[simp] theorem oneStepNearer_nil : oneStepNearer [] = [] := rfl

/-! ### The cursor registers by number -/

@[simp] theorem State.idx_c0 (s : State) : s.idx .c0 = s.i0 := rfl
@[simp] theorem State.idx_c1 (s : State) : s.idx .c1 = s.i1 := rfl
@[simp] theorem State.off_c0 (s : State) : s.off .c0 = s.o0 := rfl
@[simp] theorem State.off_c1 (s : State) : s.off .c1 = s.o1 := rfl

@[simp] theorem State.log_idx (s : State) (e : Event) (c : CursorId) : (s.log e).idx c = s.idx c := by cases c <;> rfl
@[simp] theorem State.log_off (s : State) (e : Event) (c : CursorId) : (s.log e).off c = s.off c := by cases c <;> rfl
@[simp] theorem State.log_sample (s : State) (e : Event) (i j : Nat) : (s.log e).sample i j = s.sample i j := rfl

theorem State.busy_iff (s : State) : s.busy = true ↔ s.ph ≠ phIdle := by simp [State.busy]

end Sys2Proof.Machine
end

