-- ==== Sys2Proof/Laws/Ops.lean ====
section
/-! SUPPORT. For each shared operation, everything it can do, once; and the same for an operation of the block and for a
step. -/

namespace Sys2Proof.Machine

/-! ### The primitives -/

theorem poolRead_eq_ok {s : State} {i j : Nat} (hi : i < s.cfg.m) (hj : j < s.cfg.n) :
    poolRead s i j = .ok (s.sample i j, s.log (.poolRd i j (s.sample i j))) := by
  rw [poolRead, if_pos ⟨hi, hj⟩]

theorem poolRead_eq_error {s : State} {i j : Nat} (h : ¬(i < s.cfg.m ∧ j < s.cfg.n)) :
    poolRead s i j = .error (.poolIndex i j) := by
  rw [poolRead, if_neg h]

theorem drawInRange_iff (s : State) : s.drawInRange = true ↔ s.nextDraw < s.cfg.m := by
  rw [State.drawInRange, State.nextDraw]
  cases s.draws with
  | cons d ds => simp
  | nil =>
    have := (Config.freeDraw (s.cfg.m - 1) s.taken).isLt
    simp only [decide_eq_true_eq]
    omega

/-- The state after a draw for cursor `c`. -/
def afterDraw (c : CursorId) (s : State) : State :=
  { s.log (.drawn c s.nextDraw) with draws := s.draws.tail, taken := s.taken + 1 }

theorem draw_eq (s : State) (c : CursorId) :
    draw s c = if s.nextDraw < s.cfg.m then .ok (s.nextDraw, afterDraw c s) else .error (.drawRange s.nextDraw) := by
  simp only [draw, drawInRange_iff, afterDraw]

/-- The state after cursor `c` reseeded. -/
def afterReseed (c : CursorId) (s : State) : State := ((afterDraw c s).setOff c 0).setIdx c s.nextDraw

/-- The reseed rule in one equation (42_reseed.md R140, R146). -/
theorem reseed_eq (c : CursorId) (s : State) :
    reseed c s =
      if s.cfg.m ≤ s.off c then
        if s.nextDraw < s.cfg.m then .ok (afterReseed c s) else .error (.drawRange s.nextDraw)
      else .ok s := by
  rw [reseed, draw_eq]
  by_cases hm : s.cfg.m ≤ s.off c <;> by_cases hd : s.nextDraw < s.cfg.m <;> simp [hm, hd, afterReseed]

/-- The sample a batch with weights `ws`, `wc` delivers at number `j` (41_batch_sequencer.md R123, R124). -/
def sampleValue (ws wc : Weight) (j : Nat) (s : State) : F32 :=
  numMix s.cfg.num ws (s.sample s.i0 (s.o0 + j)) wc (s.sample s.i1 (s.o1 + j))

/-- The events of one sample: two pool reads, cursor 0 first (20_memory.md R77), and the pair. -/
def sampleEvents (ws wc : Weight) (j : Nat) (s : State) : List Event :=
  [.poolRd s.i0 (s.o0 + j) (s.sample s.i0 (s.o0 + j)), .poolRd s.i1 (s.o1 + j) (s.sample s.i1 (s.o1 + j)),
    .out s.wr (sampleValue ws wc j s) (sampleValue ws wc j s)]

/-- Both pool reads of sample `j` are in bounds (20_memory.md R54). -/
def sampleInBounds (j : Nat) (s : State) : Prop :=
  (s.i0 < s.cfg.m ∧ s.o0 + j < s.cfg.n) ∧ s.i1 < s.cfg.m ∧ s.o1 + j < s.cfg.n

theorem mixSample_eq_ok {ws wc : Weight} {j : Nat} {s : State} (h : sampleInBounds j s) :
    mixSample ws wc j s = .ok { s with hist := s.hist ++ sampleEvents ws wc j s, wr := s.wr + 1 } := by
  obtain ⟨⟨h1, h2⟩, h3, h4⟩ := h
  simp only [mixSample, sampleOffset, State.idx_c0, State.off_c0, State.idx_c1, State.off_c1]
  rw [poolRead_eq_ok h1 h2]
  simp only [State.log_i1, State.log_o1]
  rw [poolRead_eq_ok (by simpa using h3) (by simpa using h4)]
  simp [outWrite, State.log, sampleEvents, sampleValue, State.sample]

/-- A sample either is delivered, both reads in bounds, or the pool reader faults. -/
theorem mixSample_cases (ws wc : Weight) (j : Nat) (s : State) :
    (sampleInBounds j s ∧
        mixSample ws wc j s = .ok { s with hist := s.hist ++ sampleEvents ws wc j s, wr := s.wr + 1 }) ∨
      (¬ sampleInBounds j s ∧ ∃ i k, mixSample ws wc j s = .error (.poolIndex i k)) := by
  by_cases h : sampleInBounds j s
  · exact .inl ⟨h, mixSample_eq_ok h⟩
  · refine .inr ⟨h, ?_⟩
    simp only [mixSample, sampleOffset, State.idx_c0, State.off_c0, State.idx_c1, State.off_c1]
    by_cases h0 : s.i0 < s.cfg.m ∧ s.o0 + j < s.cfg.n
    · rw [poolRead_eq_ok h0.1 h0.2]
      simp only [State.log_i1, State.log_o1]
      rw [poolRead_eq_error (by simpa using fun h3 h4 => h ⟨h0, h3, h4⟩)]
      exact ⟨_, _, rfl⟩
    · rw [poolRead_eq_error h0]
      exact ⟨_, _, rfl⟩

/-! ### The operations -/

theorem execFill_eq {count : Nat} {s : State} (h : s.ph = phIdle) :
    execFill count s = .next
      (if count = 0 then
        { s with rem := 0, wr := 0, offers := withoutPortWord s.offers, hist := s.hist ++ [.cmd 0, .done] }
      else
        { s with
          rem := count, wr := 0, offers := withoutPortWord s.offers, hist := s.hist ++ [.cmd count], ph := phBset }) := by
  rw [execFill, if_pos h]
  by_cases hc : count = 0
  · simp [hc, fillDone, State.log]
  · simp [hc, State.log]

theorem execBset_eq {s : State} (h : s.ph = phBset) :
    execBset s = .next { s with
      ws := (numWeights s.cfg.num s.o0 s.cfg.n).1, wc := (numWeights s.cfg.num s.o0 s.cfg.n).2,
      kb := batchLength s, j := 0, ph := phMix } := by
  rw [execBset, if_pos h]

/-- The state after `MIX` delivered a sample. -/
def afterMixOne (s : State) : State :=
  { s with hist := s.hist ++ sampleEvents s.ws s.wc s.j s, wr := s.wr + 1, j := s.j + 1, waits := s.waits.tail }

/-- Everything `MIX` can do where `PH` selects it (41_batch_sequencer.md R125, 20_memory.md R64). -/
theorem execMix_cases {s : State} (h : s.ph = phMix) :
    (s.kb ≤ s.j ∧ execMix s = .next { s with ph := phAdv }) ∨
      (s.j < s.kb ∧ ∃ w ws, s.waits = (w + 1) :: ws ∧ execMix s = .next { s with waits := w :: ws }) ∨
      (s.j < s.kb ∧ (s.waits = [] ∨ ∃ ws, s.waits = 0 :: ws) ∧ sampleInBounds s.j s ∧
        execMix s = .next (afterMixOne s)) ∨
      (s.j < s.kb ∧ ¬ sampleInBounds s.j s ∧ ∃ i k, execMix s = .fault (.poolIndex i k)) := by
  rw [execMix, if_pos h]
  by_cases hw : s.pairNotTaken = true
  · obtain ⟨-, hj, w, ws, hws⟩ := s.pairNotTaken_iff.1 hw
    exact .inr (.inl ⟨hj, w, ws, hws, by simp [hw, held, hostWaits, hws]⟩)
  rw [if_neg hw]
  by_cases hj : s.j < s.kb
  · rw [if_pos hj]
    have taken : s.waits = [] ∨ ∃ ws, s.waits = 0 :: ws := by
      rcases hws : s.waits with _ | ⟨_ | w, ws⟩
      · exact .inl rfl
      · exact .inr ⟨ws, rfl⟩
      · exact absurd (s.pairNotTaken_iff.2 ⟨h, hj, w, ws, hws⟩) hw
    rcases mixSample_cases s.ws s.wc s.j s with ⟨hb, he⟩ | ⟨hb, i, k, he⟩
    · exact .inr (.inr (.inl ⟨hj, taken, hb, by rw [mixOne, he]; rfl⟩))
    · exact .inr (.inr (.inr ⟨hj, hb, i, k, by rw [mixOne, he]; rfl⟩))
  · rw [if_neg hj]
    exact .inl ⟨by omega, rfl⟩

/-- `MIX` where the host has not taken the pair: held (00_scope.md R19, 20_memory.md R64). -/
theorem execMix_held {s : State} (h : s.pairNotTaken = true) : execMix s = held .pairNotTaken s := by
  rw [execMix, if_pos (s.pairNotTaken_iff.1 h).1, if_pos h]

theorem execAdv_eq {s : State} (h : s.ph = phAdv) :
    execAdv s = .next { s with o0 := s.o0 + s.kb, o1 := s.o1 + s.kb, rem := s.rem - s.kb, ph := phRs0 } := by
  rw [execAdv, if_pos h]

theorem execRs0_eq {s : State} (h : s.ph = phRs0) :
    execRs0 s =
      if s.cfg.m ≤ s.o0 then
        if s.nextDraw < s.cfg.m then .next { afterReseed .c0 s with ph := phRs1 }
        else .fault (.drawRange s.nextDraw)
      else .next { s with ph := phRs1 } := by
  rw [execRs0, if_pos h, reseed_eq, State.off_c0]
  by_cases hm : s.cfg.m ≤ s.o0 <;> by_cases hd : s.nextDraw < s.cfg.m <;> simp [hm, hd]

theorem execRs1_eq {s : State} (h : s.ph = phRs1) :
    execRs1 s =
      if s.cfg.m ≤ s.o1 then
        if s.nextDraw < s.cfg.m then .next (loopDecision (afterReseed .c1 s))
        else .fault (.drawRange s.nextDraw)
      else .next (loopDecision s) := by
  rw [execRs1, if_pos h, reseed_eq, State.off_c1]
  by_cases hm : s.cfg.m ≤ s.o1 <;> by_cases hd : s.nextDraw < s.cfg.m <;> simp [hm, hd]

/-! ### The step -/

/-- What the block runs next, phase by phase (10_state.md R31). -/
theorem select_idle {s : State} (h : s.ph = phIdle) :
    (s.port = none ∧ select s = .held .noCommand) ∨
      (∃ cw, s.port = some cw ∧ opField cw = 0x1#4 ∧ select s = .run (.fill (countField cw).toNat)) ∨
      (∃ cw, s.port = some cw ∧ opField cw ≠ 0x1#4 ∧ select s = .reserved cw) := by
  rw [select, if_pos h]
  rcases hp : s.port with _ | cw
  · exact .inl ⟨rfl, rfl⟩
  · refine .inr ?_
    simp only [decode_cmd]
    by_cases hop : opField cw = 0x1#4
    · exact .inl ⟨cw, rfl, hop, by rw [if_pos hop]⟩
    · exact .inr ⟨cw, rfl, hop, by rw [if_neg hop]⟩

theorem select_mix {s : State} (h : s.ph = phMix) :
    select s = if s.pairNotTaken then .held .pairNotTaken else .run .mix := by
  rw [select, h]; rfl

theorem select_bset {s : State} (h : s.ph = phBset) : select s = .run .bset := by
  rw [select, State.pairNotTaken_of_ph_ne (by rw [h]; decide), h]; rfl

theorem select_adv {s : State} (h : s.ph = phAdv) : select s = .run .adv := by
  rw [select, State.pairNotTaken_of_ph_ne (by rw [h]; decide), h]; rfl

theorem select_rs0 {s : State} (h : s.ph = phRs0) : select s = .run .rs0 := by
  rw [select, State.pairNotTaken_of_ph_ne (by rw [h]; decide), h]; rfl

theorem select_rs1 {s : State} (h : s.ph = phRs1) : select s = .run .rs1 := by
  rw [select, State.pairNotTaken_of_ph_ne (by rw [h]; decide), h]; rfl

/-- The six codes a phase at most 5 can be (10_state.md R31). -/
theorem phase_cases {ph : PhaseCode} (h : ph.toNat ≤ 5) :
    ph = phIdle ∨ ph = phBset ∨ ph = phMix ∨ ph = phAdv ∨ ph = phRs0 ∨ ph = phRs1 := by
  revert h
  revert ph
  decide

/-- A step, phase by phase: what `exec` answers where an operation runs, held steps included. -/
theorem step_eq {s : State} (hw : s.cfg.wf = true) :
    step s =
      if s.rst then .next (applyReset s)
      else
        match select s with
        | .held why => held why s
        | .run i => exec i s
        | .reserved cw => .refused (.reservedCommand cw)
        | .noPhase ph => .fault (.phase ph) := by
  rw [step, outcome, if_pos hw]
  cases s.rst with
  | true => rfl
  | false =>
    cases select s with
    | held why => rfl
    | reserved cw => rfl
    | noPhase ph => rfl
    | run i =>
      simp only [Bool.false_eq_true, if_false]
      cases exec i s <;> rfl

/-- Everything a step can answer with a next state, in a state whose phase is one of the six. -/
theorem step_cases {s t : State} (hp : s.ph.toNat ≤ 5) (h : step s = .next t) :
    s.cfg.wf = true ∧
      ((s.rst = true ∧ t = applyReset s) ∨
        (s.rst = false ∧
          ((s.ph = phIdle ∧ s.port = none ∧ t = hostWaits .noCommand s) ∨
            (s.ph = phIdle ∧ ∃ count, s.port ≠ none ∧ count < 2 ^ 28 ∧ execFill count s = .next t) ∨
            (s.ph = phBset ∧ execBset s = .next t) ∨
            (s.ph = phMix ∧ execMix s = .next t) ∨
            (s.ph = phAdv ∧ execAdv s = .next t) ∨
            (s.ph = phRs0 ∧ execRs0 s = .next t) ∨
            (s.ph = phRs1 ∧ execRs1 s = .next t)))) := by
  have hw : s.cfg.wf = true := by
    by_contra hw
    simp [step, outcome, hw] at h
  rw [step_eq hw] at h
  refine ⟨hw, ?_⟩
  cases hr : s.rst with
  | true =>
    rw [hr] at h
    exact .inl ⟨rfl, by cases h; rfl⟩
  | false =>
    rw [hr] at h
    refine .inr ⟨rfl, ?_⟩
    rcases phase_cases hp with hph | hph | hph | hph | hph | hph
    · rcases select_idle hph with ⟨ho, hs⟩ | ⟨cw, ho, hop, hs⟩ | ⟨cw, ho, hop, hs⟩ <;>
        rw [hs] at h
      · exact .inl ⟨hph, ho, by cases h; rfl⟩
      · exact .inr (.inl ⟨hph, _, by simp [ho], (countField cw).isLt, h⟩)
      · cases h
    · rw [select_bset hph] at h; exact .inr (.inr (.inl ⟨hph, h⟩))
    · refine .inr (.inr (.inr (.inl ⟨hph, ?_⟩)))
      rw [select_mix hph] at h
      by_cases hp : s.pairNotTaken = true
      · rw [execMix_held hp]; simpa [hp] using h
      · rw [if_neg hp] at h; exact h
    · rw [select_adv hph] at h; exact .inr (.inr (.inr (.inr (.inl ⟨hph, h⟩))))
    · rw [select_rs0 hph] at h; exact .inr (.inr (.inr (.inr (.inr (.inl ⟨hph, h⟩)))))
    · rw [select_rs1 hph] at h; exact .inr (.inr (.inr (.inr (.inr (.inr ⟨hph, h⟩)))))

end Sys2Proof.Machine
end

