-- ==== Sys2Proof/Laws/History.lean ====
section
/-! SUPPORT. What one more event does to each reading of the history, and what the events of one sample do. -/

namespace Sys2Proof.Machine

@[simp] theorem currentOut_append (h : List Event) (e : Event) :
    currentOut (h ++ [e]) = outStep (currentOut h) e := by simp [currentOut]

@[simp] theorem currentCount_append (h : List Event) (e : Event) :
    currentCount (h ++ [e]) = countStep (currentCount h) e := by simp [currentCount]

@[simp] theorem sampledSinceReset_append (h : List Event) (e : Event) :
    sampledSinceReset (h ++ [e]) = sampledStep (sampledSinceReset h) e := by simp [sampledSinceReset]

theorem mono_append (h h' : List Event) : Mono (h ++ h') ↔ Mono h ∧ Mono h' := by
  simp [Mono, or_imp, forall_and]

/-- One sample adds its pair to the output. -/
theorem currentOut_sample (h : List Event) (ws wc : Weight) (j : Nat) (s : State) :
    currentOut (h ++ sampleEvents ws wc j s) =
      currentOut h ++ [(sampleValue ws wc j s, sampleValue ws wc j s)] := by
  simp [currentOut, sampleEvents, outStep]

/-- One sample does not end the command. -/
theorem currentCount_sample (h : List Event) (ws wc : Weight) (j : Nat) (s : State) :
    currentCount (h ++ sampleEvents ws wc j s) = currentCount h := by
  simp [currentCount, sampleEvents, countStep]

theorem sampledSinceReset_sample (h : List Event) (ws wc : Weight) (j : Nat) (s : State) :
    sampledSinceReset (h ++ sampleEvents ws wc j s) = true := by
  simp [sampledSinceReset, sampleEvents, sampledStep]

/-- The pair of one sample is mono. -/
theorem mono_sample (ws wc : Weight) (j : Nat) (s : State) : Mono (sampleEvents ws wc j s) := by
  simp [Mono, sampleEvents, Event.mono]

theorem orderStep_sample (h : List Event) (ws wc : Weight) (j : Nat) (s : State)
    (ho : h.foldl orderStep (0, true) = (s.wr, true)) :
    (h ++ sampleEvents ws wc j s).foldl orderStep (0, true) = (s.wr + 1, true) := by
  simp [List.foldl_append, ho, sampleEvents, orderStep]

end Sys2Proof.Machine
end

