-- ==== Sys2Proof/Laws/Memory.lean ====
section
/-! SUPPORT. The laws of the pool's contents: a read after a write, the canonical form kept by every operation, and equal
contents are equal data. -/

namespace Sys2Proof.Machine

theorem Memory.wf_nil : Memory.wf [] = true := rfl

/-- The pool after reset is in the canonical form. -/
theorem Memory.wf_reset : Memory.wf State.reset.pool = true := rfl

theorem Memory.wfFrom_cons (lo b : Nat) (v : F32) (mem : Memory) :
    Memory.wfFrom lo ((b, v) :: mem) = true ↔
      lo ≤ b ∧ v ≠ Memory.unlisted ∧ Memory.wfFrom (b + 1) mem = true := by
  simp [Memory.wfFrom]

theorem Memory.wfFrom_mono {lo lo' : Nat} (h : lo ≤ lo') {mem : Memory} (w : Memory.wfFrom lo' mem = true) :
    Memory.wfFrom lo mem = true := by
  cases mem with
  | nil => rfl
  | cons cell mem =>
    rw [Memory.wfFrom_cons] at w ⊢
    exact ⟨h.trans w.1, w.2⟩

/-- Below the first address nothing is listed. -/
theorem Memory.read_below {lo a : Nat} {mem : Memory} (w : Memory.wfFrom lo mem = true) (h : a < lo) :
    Memory.read mem a = Memory.unlisted := by
  induction mem generalizing lo with
  | nil => rfl
  | cons cell mem ih =>
    rw [Memory.wfFrom_cons] at w
    rw [Memory.read, if_neg (by omega), ih w.2.2 (by omega)]

theorem Memory.wfFrom_write {lo a : Nat} (x : F32) {mem : Memory} (w : Memory.wfFrom lo mem = true) (h : lo ≤ a) :
    Memory.wfFrom lo (Memory.write mem a x) = true := by
  induction mem generalizing lo with
  | nil =>
    rw [Memory.write]
    split
    · rfl
    · next hx => exact (Memory.wfFrom_cons ..).2 ⟨h, hx, rfl⟩
  | cons cell mem ih =>
    obtain ⟨b, v⟩ := cell
    have w' := (Memory.wfFrom_cons ..).1 w
    rw [Memory.write]
    split
    · next hab =>
      split
      · exact w
      · next hx =>
        exact (Memory.wfFrom_cons ..).2 ⟨h, hx, (Memory.wfFrom_cons ..).2 ⟨hab, w'.2⟩⟩
    · split
      · next hab =>
        subst hab
        split
        · exact Memory.wfFrom_mono (by omega) w'.2.2
        · next hx => exact (Memory.wfFrom_cons ..).2 ⟨h, hx, w'.2.2⟩
      · exact (Memory.wfFrom_cons ..).2 ⟨w'.1, w'.2.1, ih w'.2.2 (by omega)⟩

/-- Writing keeps the canonical form. -/
theorem Memory.wf_write (a : Nat) (x : F32) {mem : Memory} (w : Memory.wf mem = true) :
    Memory.wf (Memory.write mem a x) = true :=
  Memory.wfFrom_write x w (Nat.zero_le a)

theorem Memory.wf_writeAll (a : Nat) (xs : List F32) {mem : Memory} (w : Memory.wf mem = true) :
    Memory.wf (Memory.writeAll mem a xs) = true := by
  induction xs generalizing mem a with
  | nil => exact w
  | cons x xs ih => exact ih _ (Memory.wf_write a x w)

/-- A pool made of blocks is in the canonical form. -/
theorem Memory.wf_ofBlocks (blocks : List (List F32)) : Memory.wf (Memory.ofBlocks blocks) = true :=
  Memory.wf_writeAll 0 _ Memory.wf_nil

theorem Memory.read_write_from {lo : Nat} (a b : Nat) (x : F32) {mem : Memory} (w : Memory.wfFrom lo mem = true) :
    Memory.read (Memory.write mem a x) b = if b = a then x else Memory.read mem b := by
  induction mem generalizing lo with
  | nil =>
    rw [Memory.write]
    split
    · next hx => subst hx; simp [Memory.read]
    · simp [Memory.read]
  | cons cell mem ih =>
    obtain ⟨c, v⟩ := cell
    have w' := (Memory.wfFrom_cons ..).1 w
    have below {d : Nat} (h : d < c + 1) : Memory.read mem d = Memory.unlisted :=
      Memory.read_below w'.2.2 h
    rw [Memory.write]
    split
    · next hac =>
      split
      · next hx =>
        subst hx
        split
        · next hba => rw [Memory.read, if_neg (by omega), below (by omega)]
        · rfl
      · rw [Memory.read]
    · split
      · next hac =>
        subst hac
        split
        · next hx =>
          subst hx
          split
          · next hba => rw [hba, below (by omega)]
          · next hba => rw [Memory.read, if_neg hba]
        · rw [Memory.read, Memory.read]
          split <;> rfl
      · rw [Memory.read, Memory.read, ih w'.2.2]
        split
        · next hbc => rw [if_neg (by omega)]
        · rfl

/-- A read after a write: the value written at that address, what was there at every other. -/
theorem Memory.read_write (a b : Nat) (x : F32) {mem : Memory} (w : Memory.wf mem = true) :
    Memory.read (Memory.write mem a x) b = if b = a then x else Memory.read mem b :=
  Memory.read_write_from a b x w

/-- Pools in the canonical form that read alike everywhere are the same data. -/
theorem Memory.ext_from {lo : Nat} {mem mem' : Memory} (w : Memory.wfFrom lo mem = true)
    (w' : Memory.wfFrom lo mem' = true) (h : ∀ a, Memory.read mem a = Memory.read mem' a) : mem = mem' := by
  induction mem generalizing lo mem' with
  | nil =>
    cases mem' with
    | nil => rfl
    | cons cell' mem' =>
      obtain ⟨b, v⟩ := cell'
      have w2 := (Memory.wfFrom_cons ..).1 w'
      have := h b
      simp only [Memory.read, if_true] at this
      exact absurd this.symm w2.2.1
  | cons cell mem ih =>
    obtain ⟨a, u⟩ := cell
    have w1 := (Memory.wfFrom_cons ..).1 w
    cases mem' with
    | nil =>
      have := h a
      simp only [Memory.read, if_true] at this
      exact absurd this w1.2.1
    | cons cell' mem' =>
      obtain ⟨b, v⟩ := cell'
      have w2 := (Memory.wfFrom_cons ..).1 w'
      have key : a = b := by
        rcases Nat.lt_trichotomy a b with hab | hab | hab
        · have := h a
          rw [Memory.read, if_pos rfl, Memory.read, if_neg (by omega),
            Memory.read_below w2.2.2 (by omega)] at this
          exact absurd this w1.2.1
        · exact hab
        · have := h b
          rw [Memory.read, if_neg (by omega), Memory.read_below w1.2.2 (by omega), Memory.read,
            if_pos rfl] at this
          exact absurd this.symm w2.2.1
      subst key
      have huv : u = v := by simpa [Memory.read] using h a
      subst huv
      congr 1
      refine ih w1.2.2 w2.2.2 fun d => ?_
      have hd := h d
      rw [Memory.read, Memory.read] at hd
      split at hd
      · next hda =>
        rw [Memory.read_below w1.2.2 (by omega), Memory.read_below w2.2.2 (by omega)]
      · exact hd

theorem Memory.ext {mem mem' : Memory} (w : Memory.wf mem = true) (w' : Memory.wf mem' = true)
    (h : ∀ a, Memory.read mem a = Memory.read mem' a) : mem = mem' :=
  Memory.ext_from w w' h

end Sys2Proof.Machine
end

