-- ==== Sys2Proof/Laws/Numerics.lean ====
section
/-! SUPPORT. What the named properties of `NUM` (spec 41_batch_sequencer.md R120) give together. -/

namespace Sys2Proof.Machine

/-- NUM-P4 and NUM-P5 together: at half the block length a normal sample of cursor 0 comes out as it is, beside a finite
sample of cursor 1 of at most half its size. It is what the worked example needs to give 4, 5, 6 (R120). -/
theorem mix_at_right_angle {num : Numerics} {h : Nat} {x0 x1 : F32} (p4 : NumP4 num (2 * h)) (p5 : NumP5 num)
    (hh : 1 ≤ h) (hx0 : isNormal32 x0 = true) (hx1 : isFinite32 x1 = true)
    (hle : |value32 x1| ≤ |value32 x0| / 2) :
    numMix num (numWeights num h (2 * h)).1 x0 (numWeights num h (2 * h)).2 x1 = x0 := by
  obtain ⟨one, small⟩ := p4 h hh rfl
  have fin : isFinite32 x0 = true := ((Bool.and_eq_true _ _).mp hx0).1
  rw [one]
  exact (p5 _ x0 x1 small fin hx1).1 hx0 hle

end Sys2Proof.Machine
end

