-- ==== Sys2Proof/Laws/PerInstr.lean ====
section
/-! SUPPORT. The per-instruction family `OpcodeTable`: the code of every operation lies in its row of spec/opcode_table.json
(the row's width, and the row's fixed bits). -/

namespace Sys2Proof.Laws.OpcodeTable

/-- The code has the row's width and, under the row's mask, the row's value. -/
def Statement (i : Instr) : Prop :=
  (encode i).width = i.row.width ∧ (encode i).bits &&& i.row.mask = i.row.value

theorem fill (count : Nat) : Statement (.fill count) :=
  ⟨rfl, by
    have := congrArg BitVec.toNat (opMask_eq (encodeFill count))
    rw [opField_encodeFill, BitVec.toNat_and] at this
    exact this⟩

theorem bset : Statement .bset := by unfold Statement; decide

theorem mix : Statement .mix := by unfold Statement; decide

theorem adv : Statement .adv := by unfold Statement; decide

theorem rs0 : Statement .rs0 := by unfold Statement; decide

theorem rs1 : Statement .rs1 := by unfold Statement; decide

end Sys2Proof.Laws.OpcodeTable
end

