-- ==== Sys2Proof/Tests/Slice0.lean ====
section
/-! SUPPORT. The model's own tests: words written out from spec/30_encoding.md, one step per test with expected values from the
spec's own vectors (95_test_vectors.md), and for each statement with hypotheses a state that meets them. -/

namespace Sys2Proof.Tests

open Sys2Proof.Machine

/-! ### Well-formedness and decoding -/

/-- A count beyond 28 bits is ill-formed (30_encoding.md R82). -/
theorem test_wf_refuses_long_count : (Instr.fill 268435456).wf = false := by decide

theorem test_wf_largest_count : (Instr.fill 268435455).wf = true := by decide

/-- FILL 3: `OP = 0001`, `COUNT = 3`, written out bit by bit (R81, R83). -/
theorem test_decode_fill : decode (.cmd 0b0001_0000000000000000000000000011#32) = .ok (.fill 3) := by decide

theorem test_decode_op_nine_reserved :
    decode (.cmd 0b1001_0000000000000000000000000011#32) = .error (.reservedCommand 0x90000003#32) := by decide

theorem test_decode_bset : decode (.uop 0b001#3) = .ok .bset := by decide
theorem test_decode_mix : decode (.uop 0b010#3) = .ok .mix := by decide
theorem test_decode_adv : decode (.uop 0b011#3) = .ok .adv := by decide
theorem test_decode_rs0 : decode (.uop 0b100#3) = .ok .rs0 := by decide
theorem test_decode_rs1 : decode (.uop 0b101#3) = .ok .rs1 := by decide
theorem test_decode_phase_six : decode (.uop 0b110#3) = .error (.noMicroOperation 6) := by decide

/-- `FILL 1024` is `0x10000400` (R88). -/
theorem test_encode_fill : encode (.fill 1024) = .cmd 0x10000400#32 := by decide

theorem test_table_word : decodeTableWord 32 0x10000003 = some (.fill 3) ∧ decodeTableWord 8 5 = some .rs1 := by decide

/-- The text of R88, with the comment of 95_test_vectors.md P1. -/
theorem test_assemble : assemble "FILL 3            ; 0x10000003" = some (.fill 3) := by decide +kernel

theorem test_assemble_hex_too_long : assemble "FILL 0x10000000" = none := by decide +kernel

/-! ### States for the tests -/

/-- The binary32 pattern of a natural number. -/
def f32 (k : Nat) : F32 := BitVec.ofNat 32 (binary32.round false k 1)

/-- `POOL[i][j] = 10 * i + j` for `M` blocks of `N` samples (95_test_vectors.md V1). -/
def tenPool (m n : Nat) : Memory :=
  Memory.ofBlocks ((List.range m).map fun i => (List.range n).map fun j => f32 (10 * i + j))

/-- The launch of V1: `M = 4, N = 8`, with given draws. -/
def v1 (num : Numerics) (draws : List Nat) : State :=
  { State.launch ⟨4, 8, num⟩ (tenPool 4 8) with draws := draws }

/-- The same with a word on the port. -/
def v1Offer (cw : CmdWord) : State := { v1 .uninterpreted [2] with offers := [⟨0, cw⟩] }

/-- V1 in the middle of its batch: one sample delivered. -/
def v1Mix : State :=
  { v1 .uninterpreted [2] with
    ph := phMix, rem := 3, kb := 3, j := 1, wr := 1
    hist := [.reset, .cmd 3, .poolRd 0 4 (f32 4), .poolRd 0 0 (f32 0), .out 0 (f32 4) (f32 4)] }

/-- V1 after its three samples. -/
def v1Adv : State := { v1Mix with ph := phAdv, j := 3, wr := 3 }

/-- V1 after the advance: `O0 = 7, O1 = 3, REM = 0`. -/
def v1Rs0 : State := { v1Adv with ph := phRs0, o0 := 7, o1 := 3, rem := 0 }

/-- V1 at its last test. -/
def v1Rs1 : State := { v1Rs0 with ph := phRs1, o0 := 0, i0 := 2, draws := [] }

/-- A batch boundary in the middle of a longer FILL (P2, `FILL 10`, first batch). -/
def p2Bset : State :=
  { v1 .uninterpreted [3, 0] with
    ph := phBset, i0 := 2, o0 := 3, i1 := 1, o1 := 0, rem := 10, wr := 0, hist := [.reset, .cmd 10] }

/-- Next state of an outcome. -/
def nextOf (r : Host.Outcome State Fault Refusal) : Option State :=
  match r with
  | .next t => some t
  | .fault _ => none
  | .refused _ => none

/-! ### One step of each operation, values from 95_test_vectors.md -/

/-- 2.2: `FILL 3` at reset goes to BSET with REM = 3. -/
theorem test_fill_accept :
    (nextOf (step (v1Offer 0x10000003#32))).map (fun t => (t.ph, t.rem, t.wr, t.offers)) =
      some (phBset, 3, 0, []) := by decide

/-- 2.2: `FILL 0` leaves `(0, 4, 0, 0)`, IDLE, with `Cmd(0)` then `Done`. -/
theorem test_fill_zero :
    (nextOf (step (v1Offer 0x10000000#32))).map (fun t => (t.o0, t.ph, t.hist)) =
      some (4, phIdle, [.reset, .cmd 0, .done]) := by decide

/-- 2.3: `O0 = 3, O1 = 0, REM = 10` gives `KB = 5`, limited by `N - O0`. -/
theorem test_bset_length :
    (nextOf (step p2Bset)).map (fun t => (t.kb, t.j, t.ph)) = some (5, 0, phMix) := by decide

/-- 2.3: the weights of that batch under REF64. -/
theorem test_bset_weights : ref64Weights 3 8 = (0x3FED906BCF328D46#64, 0x3FD87DE2A6AEA964#64) := by
  decide +kernel

/-- V1, sample 1 under REF64: 5.0 on both channels. -/
theorem test_mix_sample :
    (nextOf (step { v1Mix with
      cfg := ⟨4, 8, .ref64⟩, ws := 0x3FF0000000000000#64, wc := 0x3C91A62633145C07#64 })).map
        (fun t => (t.j, t.wr, t.hist.getLast?)) =
      some (2, 2, some (.out 1 0x40A00000#32 0x40A00000#32)) := by decide +kernel

/-- The exit from the batch. -/
theorem test_mix_exit : (nextOf (step { v1Mix with j := 3 })).map (·.ph) = some phAdv := by decide

/-- 2.5, first row. -/
theorem test_adv : (nextOf (step v1Adv)).map (fun t => (t.o0, t.o1, t.rem, t.ph)) = some (7, 3, 0, phRs0) := by decide

/-- 2.6, first row: `7 >= 4`, draw 2. -/
theorem test_rs0_reseeds :
    (nextOf (step v1Rs0)).map (fun t => (t.o0, t.i0, t.ph, t.draws)) = some (0, 2, phRs1, []) := by decide

/-- 2.6: `O0 = M - 1` does not reseed. -/
theorem test_rs0_keeps :
    (nextOf (step { v1Rs0 with o0 := 3 })).map (fun t => (t.o0, t.i0, t.draws)) = some (3, 0, [2]) := by decide

/-- 2.6: `O1 = 3, REM = 0`: no reseed, the command completes. -/
theorem test_rs1_done :
    (nextOf (step v1Rs1)).map (fun t => (t.o1, t.ph, t.hist.getLast?)) = some (3, phIdle, some .done) := by decide

/-- 2.6: `O1 = 5, REM = 5` reseeds and goes on. -/
theorem test_rs1_reseeds :
    (nextOf (step { v1Rs1 with o1 := 5, rem := 5, draws := [1] })).map (fun t => (t.o1, t.i1, t.ph)) =
      some (0, 1, phBset) := by decide

/-- 2.4: no clipping, the sum narrows to infinity. -/
theorem test_ref64_overflow :
    ref64Mix 0x3FE6A09E667F3BCC#64 0x7F7FFFFF#32 0x3FE6A09E667F3BCD#64 0x7F7FFFFF#32 = 0x7F800000#32 := by
  decide +kernel

/-- 2.4: `cursor 0 = 23, cursor 1 = 10` at `3π/8`. -/
theorem test_ref64_mix :
    ref64Mix 0x3FED906BCF328D46#64 0x41B80000#32 0x3FD87DE2A6AEA964#64 0x41200000#32 = 0x41C89BC7#32 := by
  decide +kernel

/-- A host that waits (70_reset_and_hazards.md R217): no word is on the port, the block stays idle, and the wait runs down. -/
theorem test_host_waits :
    (nextOf (step { v1 .uninterpreted [] with offers := [⟨2, 0x10000003#32⟩] })).map
        (fun t => (t.port, t.ph, t.offers)) =
      some (none, phIdle, [⟨1, 0x10000003#32⟩]) := by decide

/-- R120: NUM-P4 and NUM-P5 alone give 4, 5, 6 for `FILL 3` from reset with `M = 4, N = 8` (V1). -/
theorem test_worked_example (num : Numerics) (p4 : NumP4 num 8) (p5 : NumP5 num) (k : Nat) (hk : k < 3) :
    numMix num (numWeights num 4 8).1 (f32 (4 + k)) (numWeights num 4 8).2 (f32 k) = f32 (4 + k) := by
  refine mix_at_right_angle (h := 4) p4 p5 (by decide) ?_ ?_ ?_ <;> interval_cases k <;> decide +kernel

/-- 2.7: the reset state for `N = 5` rounds down. -/
theorem test_launch_odd : (State.launch ⟨2, 5, .ref64⟩ []).o0 = 2 := by decide

/-- P1 in the big-step form: end state `(2, 0, 0, 3)`. -/
theorem test_bigFill_v1 :
    ((bigFill 3 3 (v1 .uninterpreted [2])).bind (·.toOption)).map (fun t => (t.i0, t.o0, t.i1, t.o1, t.wr)) =
      some (2, 0, 0, 3, 3) := by decide

/-! ### The invariants hold in states that are not at reset -/

/-- The invariant does not look at the command port. -/
theorem inv_of_offers {s : State} (h : Inv s) (port : List Offer) : Inv { s with offers := port } :=
  ⟨h.config, h.built, h.index, h.offset, h.phase, h.span, h.counts, h.idle, h.bset, h.batch, h.adv, h.rs, h.rs1⟩

theorem test_inv_mix : Inv v1Mix where
  config := by decide
  built := by unfold PoolBuilt; decide +kernel
  index := by decide
  offset := by decide
  phase := by decide
  span := by decide
  counts := by decide
  idle := by decide
  bset := by decide
  batch := by decide
  adv := by decide
  rs := by decide
  rs1 := by decide

theorem test_progress_mix : Progress v1Mix where
  order := by decide +kernel
  delivered := by decide
  idle := by decide
  boundary := by decide
  batch := by decide

theorem test_inv_offer : Inv (v1Offer 0x10000003#32) where
  config := by decide
  built := by unfold PoolBuilt; decide +kernel
  index := by decide
  offset := by decide
  phase := by decide
  span := by decide
  counts := by decide
  idle := by decide
  bset := by decide
  batch := by decide
  adv := by decide
  rs := by decide
  rs1 := by decide

theorem test_progress_offer : Progress (v1Offer 0x10000003#32) where
  order := by decide
  delivered := by decide
  idle := by decide
  boundary := by decide
  batch := by decide

theorem test_inv_adv : Inv v1Adv where
  config := by decide
  built := test_inv_mix.built
  index := by decide
  offset := by decide
  phase := by decide
  span := by decide
  counts := by decide
  idle := by decide
  bset := by decide
  batch := by decide
  adv := by decide
  rs := by decide
  rs1 := by decide

/-- The end of V1 with the history of its three samples. -/
def v1End : State :=
  { v1Rs1 with
    wr := 1, kb := 1, j := 1
    hist := [.reset, .cmd 1, .poolRd 0 4 (f32 4), .poolRd 0 0 (f32 0), .out 0 (f32 4) (f32 4), .drawn .c0 2] }

theorem test_inv_end : Inv v1End where
  config := by decide
  built := test_inv_mix.built
  index := by decide
  offset := by decide
  phase := by decide
  span := by decide
  counts := by decide
  idle := by decide
  bset := by decide
  batch := by decide
  adv := by decide
  rs := by decide
  rs1 := by decide

theorem test_progress_end : Progress v1End where
  order := by decide +kernel
  delivered := by decide
  idle := by decide
  boundary := by decide
  batch := by decide

/-- Idle with both offsets 0 (2.6, after both cursors reseeded) and two draws to come. -/
def steady : State := { v1 .uninterpreted [2, 1] with o0 := 0 }

theorem test_inv_steady : Inv steady where
  config := by decide
  built := test_inv_mix.built
  index := by decide
  offset := by decide
  phase := by decide
  span := by decide
  counts := by decide
  idle := by decide
  bset := by decide
  batch := by decide
  adv := by decide
  rs := by decide
  rs1 := by decide

/-- Idle, with a FILL on the port and another to come one step after it has completed. -/
def hostObeying : State :=
  { v1Offer 0x10000003#32 with offers := [⟨0, 0x10000003#32⟩, ⟨1, 0x10000005#32⟩] }

theorem test_obeys_mix : HostObeys v1Mix where
  built := test_inv_mix.built
  fills := by decide
  waitsForCompletion := by decide
  waitsBetween := by decide
  source := by unfold DrawsInRange; decide

theorem test_obeys_offers : HostObeys hostObeying where
  built := test_inv_offer.built
  fills := by decide
  waitsForCompletion := by decide
  waitsBetween := by decide
  source := by unfold DrawsInRange; decide

/-! ### Witnesses: each statement's hypotheses can be met -/

theorem witness_DecodeOfEncodeIsTheOperation : (Instr.fill 268435455).wf = true := by decide

theorem witness_DecodedCodeIsTheEncoding : decode (.cmd 0x1FFFFFFF#32) = .ok (.fill 268435455) := by decide

theorem witness_StepRunsTheDecodedOperation :
    ((v1Offer 0x10000003#32).cfg.wf = true ∧ (v1Offer 0x10000003#32).rst = false ∧
      (v1Offer 0x10000003#32).ph = phIdle ∧ (v1Offer 0x10000003#32).port = some 0x10000003#32 ∧
      decode (.cmd 0x10000003#32) = .ok (.fill 3)) ∧
      (v1Mix.cfg.wf = true ∧ v1Mix.rst = false ∧ v1Mix.ph ≠ phIdle ∧ decode (.uop v1Mix.ph) = .ok .mix) := by decide

theorem witness_IdleBlockWithoutCommandIsHeld :
    (v1 .ref64 []).cfg.wf = true ∧ (v1 .ref64 []).rst = false ∧ (v1 .ref64 []).ph = phIdle ∧
      (v1 .ref64 []).offers = [] ∧
      ({ v1 .ref64 [] with offers := [⟨2, 0x10000003#32⟩] } : State).offers = ⟨1 + 1, 0x10000003#32⟩ :: [] := by decide

theorem witness_BusyBlockHoldsTheOfferedCommand :
    (p2Bset.busy = true ∧ p2Bset.rst = false ∧ ∃ t, step p2Bset = .next t) ∧
      ((v1Offer 0x10000003#32).cfg.wf = true ∧ (v1Offer 0x10000003#32).rst = false ∧
        (v1Offer 0x10000003#32).ph = phIdle ∧ (v1Offer 0x10000003#32).offers = ⟨0, 0x10000003#32⟩ :: [] ∧
        opField 0x10000003#32 = 0x1#4) :=
  ⟨⟨by decide, by decide, _, rfl⟩, by decide⟩

/-- Both refusals are reached. -/
theorem witness_StepRefusesExactlyAsTheRuleSays :
    step (State.launch ⟨5, 4, .ref64⟩ []) = .refused (.illFormedConfig 5 4) ∧
      step (v1Offer 0x20000003#32) = .refused (.reservedCommand 0x20000003#32) := ⟨rfl, rfl⟩

/-- Every fault is reached in some state. -/
theorem witness_StepFaultsExactlyAsTheRuleSays :
    step { v1Mix with ph := 6#3 } = .fault (.phase 6#3) ∧
      step { v1Mix with i0 := 4 } = .fault (.poolIndex 4 5) ∧
      step { v1Mix with o1 := 7 } = .fault (.poolIndex 0 8) ∧
      step { v1Rs0 with draws := [4] } = .fault (.drawRange 4) ∧
      step { v1Rs1 with o1 := 4, draws := [9] } = .fault (.drawRange 9) := ⟨rfl, rfl, rfl, rfl, rfl⟩

theorem witness_ResetInAnyStateAbandonsTheFill :
    ({ v1Mix with rst := true, offers := [⟨0, 0x10000005#32⟩] } : State).cfg.wf = true ∧
      ({ v1Mix with rst := true, offers := [⟨0, 0x10000005#32⟩] } : State).rst = true ∧
      ({ v1Mix with rst := true, offers := [⟨0, 0x10000005#32⟩] } : State).busy = true ∧
      ({ v1Mix with rst := true, offers := [⟨0, 0x10000005#32⟩] } : State).port ≠ none := by decide

/-- Both reasons to be held (40_fill_command.md R101, 20_memory.md R64), at the last sample of a batch for the second; past
it `MIX` leaves the batch at once; and the other three outcomes. -/
theorem witness_StepHasExactlyOneOfFourOutcomes :
    outcome (v1 .uninterpreted []) = .held .noCommand ∧
      outcome { v1Mix with j := 2, waits := [1] } = .held .pairNotTaken ∧
      outcome { v1Mix with j := 3, waits := [1] } = .next { v1Mix with j := 3, waits := [1], ph := phAdv } ∧
      outcome { v1Mix with ph := 7#3 } = .fault (.phase 7#3) ∧
      outcome (v1Offer 0x20000003#32) = .refused (.reservedCommand 0x20000003#32) := ⟨rfl, rfl, rfl, rfl, rfl⟩

/-- A next state out of every row of the table (40_fill_command.md R114). -/
theorem witness_PhaseTransitionsFollowTheTable :
    [{ v1Mix with rst := true }, v1 .uninterpreted [], v1Offer 0x10000000#32, v1Offer 0x10000001#32, p2Bset, v1Mix,
      { v1Mix with j := 3 }, v1Adv, v1Rs0, v1Rs1, { v1Rs1 with rem := 1 }].all
        (fun s => (nextOf (step s)).isSome) = true := by decide

theorem witness_FillIsAccepted : (v1 .ref64 []).ph = phIdle := by decide

theorem witness_FillZeroCompletesAtOnce :
    (v1Offer 0x10000000#32).cfg.wf = true ∧ (v1Offer 0x10000000#32).rst = false ∧
      (v1Offer 0x10000000#32).ph = phIdle ∧ (v1Offer 0x10000000#32).port = some 0x10000000#32 := by decide

theorem witness_BatchLengthIsTheLargest :
    p2Bset.o0 ≤ p2Bset.cfg.n ∧ p2Bset.o1 ≤ p2Bset.cfg.n ∧ batchLength p2Bset = 5 := by decide

theorem witness_BsetSetsUpTheBatch : p2Bset.ph = phBset := by decide

/-- The last sample of the batch, at the last sample of its block, and the exit. -/
theorem witness_MixDeliversOneSampleOrLeavesTheBatch :
    ({ v1Mix with o0 := 5, j := 2 } : State).ph = phMix ∧ ({ v1Mix with o0 := 5, j := 2 } : State).j < 3 ∧
      ({ v1Mix with o0 := 5, j := 2 } : State).o0 + 2 = 7 ∧ v1Mix.waits = [] ∧ v1Mix.i0 < v1Mix.cfg.m ∧
      v1Mix.o0 + v1Mix.j < v1Mix.cfg.n ∧ v1Mix.i1 < v1Mix.cfg.m ∧ v1Mix.o1 + v1Mix.j < v1Mix.cfg.n ∧
      ({ v1Mix with j := 3 } : State).kb ≤ ({ v1Mix with j := 3 } : State).j := by decide

theorem witness_MixIsHeldUntilThePairIsTaken :
    ({ v1Mix with waits := [1] } : State).ph = phMix ∧ v1Mix.j < v1Mix.kb ∧
      ({ v1Mix with waits := [1] } : State).waits = (0 + 1) :: [] := by decide

theorem witness_AdvAdvancesBothCursors : v1Adv.ph = phAdv := by decide

/-- Exactly at the threshold, and one below it. -/
theorem witness_RsZeroReseedsCursorZero :
    v1Rs0.ph = phRs0 ∧ ({ v1Rs0 with o0 := 4 } : State).cfg.m ≤ ({ v1Rs0 with o0 := 4 } : State).o0 ∧
      v1Rs0.nextDraw < v1Rs0.cfg.m ∧ ({ v1Rs0 with o0 := 3 } : State).o0 < v1Rs0.cfg.m := by decide

theorem witness_RsOneReseedsCursorOneAndDecides :
    v1Rs1.ph = phRs1 ∧ ({ v1Rs1 with o1 := 4 } : State).cfg.m ≤ ({ v1Rs1 with o1 := 4 } : State).o1 ∧
      ({ v1Rs1 with draws := [3] } : State).nextDraw < v1Rs1.cfg.m ∧ v1Rs1.o1 < v1Rs1.cfg.m := by decide

/-- A free draw is in range too. -/
theorem witness_free_draw_in_range : v1Rs1.nextDraw < v1Rs1.cfg.m := (drawInRange_iff v1Rs1).1 (by decide)

theorem witness_FillFrame :
    (∃ t, exec (.fill 3) (v1 .ref64 []) = .next t) ∧ ∃ t, exec (.fill 0) (v1 .ref64 []) = .next t :=
  ⟨⟨_, rfl⟩, _, rfl⟩

/-- `BSET`; `ADV`; and of `MIX` the sample arm, the exit, and a held pair. -/
theorem witness_BatchFrame :
    (∃ t, exec .bset p2Bset = .next t) ∧ (∃ t, exec .adv v1Adv = .next t) ∧ (∃ t, exec .mix v1Mix = .next t) ∧
      (∃ t, exec .mix { v1Mix with j := 3 } = .next t) ∧ ∃ t, exec .mix { v1Mix with waits := [2] } = .next t :=
  ⟨⟨_, rfl⟩, ⟨_, rfl⟩, ⟨_, rfl⟩, ⟨_, rfl⟩, _, rfl⟩

/-- With and without a reseed. -/
theorem witness_ReseedFrame :
    (∃ t, exec .rs0 v1Rs0 = .next t) ∧ (∃ t, exec .rs0 { v1Rs0 with o0 := 3 } = .next t) ∧
      (∃ t, exec .rs1 { v1Rs1 with o1 := 4 } = .next t) ∧ ∃ t, exec .rs1 v1Rs1 = .next t :=
  ⟨⟨_, rfl⟩, ⟨_, rfl⟩, ⟨_, rfl⟩, _, rfl⟩

theorem witness_PoolIsNeverWritten : ∃ t, step v1Mix = .next t := ⟨_, rfl⟩

theorem witness_HistoryOnlyGrows : ∃ t, step v1Rs0 = .next t := ⟨_, rfl⟩

theorem witness_WeightsAreFixedWithinABatch :
    (∃ t, step v1Mix = .next t) ∧ v1Mix.rst = false ∧ v1Mix.ph ≠ phBset := ⟨⟨_, rfl⟩, by decide, by decide⟩

theorem witness_CursorRegistersHaveTheirWriters :
    (∃ t, step v1Rs0 = .next t ∧ t.i0 ≠ v1Rs0.i0 ∧ t.o0 ≠ v1Rs0.o0) ∧
      ∃ t, step { v1Rs1 with o1 := 4, draws := [1] } = .next t ∧ t.i1 ≠ v1Rs1.i1 :=
  ⟨⟨_, rfl, by decide, by decide⟩, _, rfl, by decide⟩

theorem witness_HistoryIsNeverRead : SameButHist v1Mix { v1Mix with hist := [] } := rfl

theorem witness_TransientRegistersAreDeadAtIdle :
    SameButTransient (v1Offer 0x10000003#32) { v1Offer 0x10000003#32 with kb := 7, wr := 9, ws := 5 } ∧
      (v1Offer 0x10000003#32).ph = phIdle ∧ (v1Offer 0x10000003#32).cfg.wf = true ∧
      (v1Offer 0x10000003#32).rst = false ∧ (v1Offer 0x10000003#32).port = some 0x10000003#32 ∧
      opField 0x10000003#32 = 0x1#4 ∧ countField 0x10000003#32 ≠ 0#28 := ⟨rfl, by decide⟩

theorem witness_LaunchMeetsTheInvariants :
    Config.wf ⟨4, 8, .ref64⟩ = true ∧ PoolBuilt (State.launch ⟨4, 8, .ref64⟩ (tenPool 4 8)) :=
  ⟨by decide, by unfold PoolBuilt; decide +kernel⟩

theorem witness_EveryStepKeepsTheRegisterInvariant : Inv v1Mix ∧ ∃ t, step v1Mix = .next t :=
  ⟨test_inv_mix, _, rfl⟩

theorem witness_EveryStepKeepsTheProgressOfTheCommand :
    Inv v1Mix ∧ Progress v1Mix ∧ ∃ t, step v1Mix = .next t := ⟨test_inv_mix, test_progress_mix, _, rfl⟩

theorem witness_EveryStepKeepsOffsetsSettled :
    Inv v1End ∧ Settled v1End ∧ sampledSinceReset v1End.hist = true ∧
      ∃ t, step v1End = .next t ∧ t.ph = phIdle :=
  ⟨test_inv_end, by intro _ h; revert h; decide, by decide, _, rfl, by decide⟩

theorem witness_EveryStepKeepsTheOutputMono : Mono v1Mix.hist ∧ ∃ t, step v1Mix = .next t :=
  ⟨by unfold Mono; decide, _, rfl⟩

/-- In the middle of a FILL, and at an idle block whose host sends a second command after a wait. -/
theorem witness_NoStepFaultsUnderThePremises :
    (Inv v1Mix ∧ DrawsInRange v1Mix ∧ HostObeys v1Mix ∧ ∃ t, step v1Mix = .next t) ∧
      Inv hostObeying ∧ DrawsInRange hostObeying ∧ HostObeys hostObeying :=
  ⟨⟨test_inv_mix, by unfold DrawsInRange; decide, test_obeys_mix, _, rfl⟩,
    inv_of_offers test_inv_offer _, test_obeys_offers.source, test_obeys_offers⟩

/-- A word that would be on the port while a FILL runs breaks the host's duty (70_reset_and_hazards.md R216). -/
theorem test_host_disobeys :
    ¬ HostObeys { hostObeying with offers := [⟨0, 0x10000003#32⟩, ⟨0, 0x10000005#32⟩] } := by
  intro h
  exact absurd h.waitsBetween (by decide)

/-- A source that yields `M` breaks it too. -/
theorem test_source_disobeys : ¬ HostObeys { hostObeying with draws := [4] } := by
  intro h
  exact absurd h.source (by unfold DrawsInRange; decide)

theorem witness_CompletedFillDeliveredItsCount :
    Inv v1End ∧ Progress v1End ∧ v1End.rst = false ∧ v1End.busy = true ∧
      (∃ t, step v1End = .next t ∧ t.ph = phIdle) ∧
      Inv (v1Offer 0x10000000#32) ∧ (v1Offer 0x10000000#32).rst = false ∧ (v1Offer 0x10000000#32).ph = phIdle ∧
      (v1Offer 0x10000000#32).port = some 0x10000000#32 :=
  ⟨test_inv_end, test_progress_end, by decide, by decide, ⟨_, rfl, by decide⟩,
    inv_of_offers test_inv_offer _, by decide⟩

theorem witness_OffsetsAreBelowMAfterBothTests :
    1 ≤ v1Rs0.cfg.m ∧ v1Rs0.ph = phRs0 ∧
      ∃ u t, exec .rs0 v1Rs0 = .next u ∧ exec .rs1 u = .next t := ⟨by decide, by decide, _, _, rfl, rfl⟩

theorem witness_AdvReachesABlockEndOrTheCount :
    Inv v1Adv ∧ v1Adv.ph = phAdv ∧ ∃ t, exec .adv v1Adv = .next t := ⟨test_inv_adv, by decide, _, rfl⟩

theorem witness_RegistersFitTheirWidths : Inv v1Mix := test_inv_mix

/-- The last sample of the last block: address `M * N - 1`; and a read of it. -/
theorem witness_PoolAddressesAreDistinctAndReadsRepeat :
    (3 < 4 ∧ 7 < 8 ∧ linearAddress 8 3 7 = 4 * 8 - 1) ∧ ∃ v t, poolRead v1Mix 3 7 = .ok (v, t) :=
  ⟨by decide, _, _, rfl⟩

theorem witness_PoolOfBlocksHoldsEverySample :
    [[f32 1, f32 2], [f32 3, f32 4]].length = 2 ∧ ∀ b ∈ [[f32 1, f32 2], [f32 3, f32 4]], b.length = 2 := by decide

theorem witness_SmallStepRunAgreesWithBigStep :
    Inv (v1Offer 0x10000003#32) ∧ (v1Offer 0x10000003#32).ph = phIdle ∧ (v1Offer 0x10000003#32).rst = false ∧
      (v1Offer 0x10000003#32).port = some 0x10000003#32 ∧ decode (.cmd 0x10000003#32) = .ok (.fill 3) ∧
      (∃ u, bigFill 3 3 (v1Offer 0x10000003#32) = some (.ok u)) ∧
      bigFill 3 3 { v1Offer 0x10000003#32 with draws := [4] } = some (.error (.drawRange 4)) :=
  ⟨test_inv_offer, by decide, by decide, by decide, by decide, ⟨_, rfl⟩, rfl⟩

theorem witness_FillCompletesWithinItsCountOfBatches :
    (Inv (v1Offer 0x10000003#32) ∧ DrawsInRange (v1Offer 0x10000003#32) ∧ (v1Offer 0x10000003#32).ph = phIdle) ∧
      Inv v1Mix ∧ DrawsInRange v1Mix ∧ v1Mix.ph ≠ phIdle :=
  ⟨⟨test_inv_offer, by unfold DrawsInRange; decide, by decide⟩, test_inv_mix, by unfold DrawsInRange; decide, by decide⟩

theorem witness_FillTakesItsNumberOfSteps :
    Inv (v1Offer 0x10000003#32) ∧ DrawsInRange (v1Offer 0x10000003#32) ∧ (v1Offer 0x10000003#32).ph = phIdle ∧
      (v1Offer 0x10000003#32).rst = false ∧ (v1Offer 0x10000003#32).waits = [] ∧
      (v1Offer 0x10000003#32).offers = ⟨0, 0x10000003#32⟩ :: [] ∧ decode (.cmd 0x10000003#32) = .ok (.fill 3) :=
  ⟨test_inv_offer, by unfold DrawsInRange; decide, by decide⟩

/-- 95_test_vectors.md P1: `FILL 3` at reset is one batch, and not fewer. -/
theorem test_fill_batches :
    (bigFill 0 3 (v1Offer 0x10000003#32)).isNone = true ∧ (bigFill 1 3 (v1Offer 0x10000003#32)).isSome = true := by
  decide

/-- At both ends of the range of counts, `M` and `N`. -/
theorem witness_SteadyStateIsOneBatchAtAngleZero :
    Inv steady ∧ DrawsInRange steady ∧ steady.o0 = 0 ∧ steady.o1 = 0 ∧ steady.cfg.m ≤ 4 ∧ 8 ≤ steady.cfg.n ∧
      steady.draws = 2 :: 1 :: [] :=
  ⟨test_inv_steady, by unfold DrawsInRange; decide, by decide⟩

theorem witness_ShortPeriodIsOneBatchEndingAtZero :
    Inv steady ∧ DrawsInRange steady ∧ steady.o0 < steady.cfg.m ∧ steady.o1 < steady.cfg.m ∧ steady.cfg.m ≤ 5 ∧
      5 ≤ steady.cfg.n - steady.cfg.m + 1 :=
  ⟨test_inv_steady, by unfold DrawsInRange; decide, by decide⟩

/-- 70_reset_and_hazards.md R212: `M = 5, N = 4`, state `(0, 4, 0, 2)`, `REM = 1`. -/
def hung : State :=
  { State.launch ⟨5, 4, .uninterpreted⟩ [] with ph := phBset, o0 := 4, o1 := 2, rem := 1 }

theorem witness_OversizedPoolCountNeverReseedsAndHangs :
    (hung.cfg.n < hung.cfg.m ∧ hung.o0 ≤ hung.cfg.n ∧ hung.o1 ≤ hung.cfg.n ∧
      (∃ t, exec .rs0 { hung with ph := phRs0 } = .next t) ∧ ∃ t, exec .rs1 { hung with ph := phRs1 } = .next t) ∧
      hung.ph = phBset ∧ hung.o0 = hung.cfg.n ∧ 1 ≤ hung.rem :=
  ⟨⟨by decide, by decide, by decide, ⟨_, rfl⟩, _, rfl⟩, by decide⟩

/-- `-0`, and the largest finite pattern, of binary32. -/
theorem witness_RoundingARepresentableNumberIsExact :
    (∃ a b, binary32.read 0x80000000 = .fin true a b) ∧ ∃ a b, binary32.read 0x7F7FFFFF = .fin false a b :=
  ⟨⟨_, _, rfl⟩, _, _, rfl⟩

/-- A third; a tie (`1 + 2^-24`, rounded to the even 1); and both sides of the overflow threshold of binary32. -/
theorem witness_RoundingGivesANearestNumber :
    0 < 3 ∧ (∃ a b, binary32.read (binary32.round true 1 3) = .fin true a b) ∧
      binary32.round false (2 ^ 24 + 1) (2 ^ 24) = 0x3F800000 ∧
      binary32.round true (2 ^ 128 - 2 ^ 103) 1 = 0xFF800000 ∧
      binary32.round false (2 ^ 128 - 2 ^ 103 - 1) 1 = 0x7F7FFFFF :=
  ⟨by decide, ⟨_, _, rfl⟩, by decide +kernel, by decide +kernel, by decide +kernel⟩

/-- A rational angle, `8 / 3`. -/
theorem witness_PartialSumsBracketSineAndCosine : 0 < 3 := by decide

/-- The smallest block length, and two finite samples. -/
theorem witness_ReferenceNumericsHaveZeroAngleAndUnitMix :
    1 ≤ 1 ∧ isFinite32 0x40A00000#32 = true ∧ isFinite32 0x80000000#32 = true := by decide +kernel

/-- The block length of the worked example, and the largest one with a right angle below the bound. -/
theorem witness_ReferenceNumericsHaveRightAngle :
    (8 < 2 ^ 10 ∧ 8 = 2 * 4) ∧ 2 ^ 1023 - 2 = 2 * (2 ^ 1022 - 1) := by decide +kernel

/-- The weight of the worked example is small, and `x0 = 4`, `x1 = 2` is the largest `x1` absorbed; `x1 = -0` beside a
subnormal `x0` is the second clause. -/
theorem witness_ReferenceNumericsAreAbsorbing :
    IsSmallWeight 0x3C91A62633145C07#64 ∧ isNormal32 (f32 4) = true ∧ isFinite32 (f32 2) = true ∧
      |value32 (f32 2)| ≤ |value32 (f32 4)| / 2 ∧ value32 0x80000000#32 = 0 ∧ isFinite32 0x80000000#32 = true ∧
      isFinite32 1#32 = true := by
  unfold IsSmallWeight; decide +kernel

/-- At angle 0 the ideal sample is `x1` itself; here 5, within the normal range. -/
theorem witness_ReferenceNumericsAreIdeallyClose :
    isFinite32 0#32 = true ∧ isFinite32 (f32 5) = true ∧ IsIdealSample 0 8 0#32 (f32 5) 5 ∧
      (2 : ℝ) ^ (-126 : ℤ) ≤ |5| ∧ |(5 : ℝ)| ≤ (2 : ℝ) ^ (128 : ℤ) - (2 : ℝ) ^ (104 : ℤ) := by
  have v0 : value32 0#32 = 0 := by decide +kernel
  have v5 : value32 (f32 5) = 5 := by decide +kernel
  refine ⟨by decide +kernel, by decide +kernel, ?_, by norm_num, by norm_num⟩
  rw [IsIdealSample, v0, v5]
  norm_num

/-- Zero times infinity (2.4), a NaN operand; and a result that is no NaN. -/
theorem witness_ReferenceMixPropagatesNaNInAnyOrder :
    (binary32.read 0x7F800000 = .inf false ∧ isNaN32 0x7FC00000#32 = true ∧ value64 0#64 = 0 ∧
      isFinite64 0#64 = true) ∧
      isNaN32 (ref64Mix 0x3FF0000000000000#64 0x40A00000#32 0x3C91A62633145C07#64 0x3F800000#32) = false := by
  decide +kernel

end Sys2Proof.Tests
end

section
/-! PROOFS. The outcomes of a step (spec 00_scope.md R19) and the widths of the registers (R12). -/

namespace Sys2Proof.Machine

/-! ### How far a register of `IW` or `OW` bits counts (00_scope.md R12) -/

theorem lt_two_pow_indexWidth {cfg : Config} {i : Nat} (h : i < cfg.m) : i < 2 ^ cfg.indexWidth :=
  calc i < cfg.m := h
    _ ≤ 2 ^ Nat.clog 2 cfg.m := Nat.le_pow_clog (by decide) _
    _ ≤ 2 ^ cfg.indexWidth := Nat.pow_le_pow_right (by decide) (le_max_right _ _)

theorem lt_two_pow_offsetWidth {cfg : Config} {o : Nat} (h : o ≤ cfg.n) : o < 2 ^ cfg.offsetWidth :=
  calc o < cfg.n + 1 := Nat.lt_succ_of_le h
    _ ≤ 2 ^ cfg.offsetWidth := Nat.le_pow_clog (by decide) _

/-- Settles O42: each bound of the register invariant is within its register's width. -/
theorem registersFitTheirWidths : Obligations.RegistersFitTheirWidths := by
  intro s inv
  obtain ⟨hi0, hi1⟩ := inv.index
  obtain ⟨ho0, ho1⟩ := inv.offset
  obtain ⟨hj, hkb⟩ := inv.span
  obtain ⟨hrem, hwr⟩ := inv.counts
  exact ⟨lt_two_pow_indexWidth hi0, lt_two_pow_indexWidth hi1,
    lt_two_pow_offsetWidth ho0, lt_two_pow_offsetWidth ho1,
    lt_two_pow_offsetWidth hkb, lt_two_pow_offsetWidth (hj.trans hkb), hrem, hwr⟩

/-! ### The four outcomes of a step (00_scope.md R19) -/

theorem select_noPhase {s : State} (h : 5 < s.ph.toNat) : select s = .noPhase s.ph := by
  have codes : ∀ ph : PhaseCode, 5 < ph.toNat →
      ph ≠ phIdle ∧ decode (.uop ph) = .error (.noMicroOperation ph) := by decide
  obtain ⟨hidle, hdec⟩ := codes s.ph h
  rw [select, if_neg hidle, hdec]

/-- When the block waits for the host: idle with no word on its port, or `MIX` with a pair that is not taken. -/
theorem select_eq_held_iff (s : State) (why : HeldBy) :
    select s = .held why ↔
      (why = .noCommand ∧ s.ph = phIdle ∧ s.port = none) ∨ (why = .pairNotTaken ∧ s.pairNotTaken = true) := by
  rw [select]
  by_cases hidle : s.ph = phIdle
  · have taken : s.pairNotTaken = false := State.pairNotTaken_of_ph_ne (by rw [hidle]; decide)
    rcases hport : s.port with _ | cw
    · simp [hidle, taken, eq_comm]
    · cases hdec : decode (.cmd cw) <;> simp [hidle, taken, hdec]
  · cases hdec : decode (.uop s.ph) with
    | ok i => by_cases hp : s.pairNotTaken = true <;> simp [hidle, hp, eq_comm]
    | error r =>
      have notMix : s.ph ≠ phMix := by
        intro h
        rw [h] at hdec
        cases hdec
      simp [hidle, State.pairNotTaken_of_ph_ne notMix]

/-- Which operation runs, phase by phase (10_state.md R27, R31). -/
theorem select_run_cases {s : State} {i : Instr} (h : select s = .run i) :
    (s.ph = phIdle ∧ ∃ count, i = .fill count) ∨ (s.ph = phBset ∧ i = .bset) ∨
      (s.ph = phMix ∧ s.pairNotTaken = false ∧ i = .mix) ∨ (s.ph = phAdv ∧ i = .adv) ∨
      (s.ph = phRs0 ∧ i = .rs0) ∨ (s.ph = phRs1 ∧ i = .rs1) := by
  rcases Nat.lt_or_ge 5 s.ph.toNat with hp | hp
  · rw [select_noPhase hp] at h
    cases h
  rcases phase_cases hp with hph | hph | hph | hph | hph | hph
  · rcases select_idle hph with ⟨-, hs⟩ | ⟨cw, -, -, hs⟩ | ⟨cw, -, -, hs⟩ <;> rw [hs] at h <;> cases h
    exact .inl ⟨hph, _, rfl⟩
  · rw [select_bset hph] at h
    cases h
    simp [hph]
  · by_cases ht : s.pairNotTaken = true
    · simp [select_mix hph, ht] at h
    · simp only [select_mix hph, ht] at h
      cases h
      simp [hph, ht]
  · rw [select_adv hph] at h
    cases h
    simp [hph]
  · rw [select_rs0 hph] at h
    cases h
    simp [hph]
  · rw [select_rs1 hph] at h
    cases h
    simp [hph]

/-! An operation that runs can be seen in the block: it records an event or it leaves its phase. -/

theorem execFill_hist_ne {count : Nat} {s t : State} (hp : s.ph = phIdle) (h : execFill count s = .next t) :
    t.hist ≠ s.hist := by
  rw [execFill_eq hp] at h
  cases h
  by_cases hc : count = 0 <;> simp [hc]

theorem execBset_ph {s t : State} (hp : s.ph = phBset) (h : execBset s = .next t) : t.ph = phMix := by
  rw [execBset_eq hp] at h
  cases h
  rfl

theorem execMix_moves {s t : State} (hp : s.ph = phMix) (ht : s.pairNotTaken = false) (h : execMix s = .next t) :
    t.hist ≠ s.hist ∨ t.ph ≠ s.ph := by
  rcases execMix_cases hp with ⟨-, he⟩ | ⟨hj, w, ws, hw, -⟩ | ⟨-, -, -, he⟩ | ⟨-, -, i, k, he⟩
  · rw [he] at h
    cases h
    exact .inr (by rw [hp]; exact (by decide : phAdv ≠ phMix))
  · have : s.pairNotTaken = true := s.pairNotTaken_iff.2 ⟨hp, hj, w, ws, hw⟩
    rw [this] at ht
    cases ht
  · rw [he] at h
    cases h
    exact .inl (by simp [afterMixOne, sampleEvents])
  · rw [he] at h
    cases h

theorem execAdv_ph {s t : State} (hp : s.ph = phAdv) (h : execAdv s = .next t) : t.ph = phRs0 := by
  rw [execAdv_eq hp] at h
  cases h
  rfl

theorem execRs0_ph {s t : State} (hp : s.ph = phRs0) (h : execRs0 s = .next t) : t.ph = phRs1 := by
  rw [execRs0_eq hp] at h
  split_ifs at h <;> cases h <;> rfl

theorem loopDecision_ph (s : State) : (loopDecision s).ph = phIdle ∨ (loopDecision s).ph = phBset := by
  by_cases hr : s.rem = 0 <;> simp [loopDecision, hr]

theorem execRs1_ph {s t : State} (hp : s.ph = phRs1) (h : execRs1 s = .next t) :
    t.ph = phIdle ∨ t.ph = phBset := by
  rw [execRs1_eq hp] at h
  split_ifs at h <;> cases h <;> exact loopDecision_ph _

theorem exec_moves_of_select {s t : State} {i : Instr} (hs : select s = .run i) (h : exec i s = .next t) :
    t.hist ≠ s.hist ∨ t.ph ≠ s.ph := by
  rcases select_run_cases hs with
    ⟨hp, count, rfl⟩ | ⟨hp, rfl⟩ | ⟨hp, ht, rfl⟩ | ⟨hp, rfl⟩ | ⟨hp, rfl⟩ | ⟨hp, rfl⟩
  · exact .inl (execFill_hist_ne hp h)
  · exact .inr (by rw [execBset_ph hp h, hp]; decide)
  · exact execMix_moves hp ht h
  · exact .inr (by rw [execAdv_ph hp h, hp]; decide)
  · exact .inr (by rw [execRs0_ph hp h, hp]; decide)
  · exact .inr (by rcases execRs1_ph hp h with ht | ht <;> rw [ht, hp] <;> decide)

theorem SameBlock.hist_ph {s t : State} (h : SameBlock s t) : t.hist = s.hist ∧ t.ph = s.ph := by
  rw [SameBlock] at h
  rw [← h]
  exact ⟨rfl, rfl⟩

theorem sameBlock_hostWaits (why : HeldBy) (s : State) : SameBlock s (hostWaits why s) := rfl

theorem StepOutcome.ofExec_ne_held (r : Host.Outcome State Fault Refusal) (why : HeldBy) :
    StepOutcome.ofExec r ≠ .held why := by
  cases r <;> simp [StepOutcome.ofExec]

theorem StepOutcome.ofExec_eq_next {r : Host.Outcome State Fault Refusal} {t : State}
    (h : StepOutcome.ofExec r = .next t) : r = .next t := by
  cases r <;> simp_all [StepOutcome.ofExec]

theorem outcome_eq_held_iff (s : State) (why : HeldBy) :
    outcome s = .held why ↔ s.cfg.wf = true ∧ s.rst = false ∧ select s = .held why := by
  rw [outcome]
  by_cases hw : s.cfg.wf = true
  · cases hr : s.rst with
    | true => simp [hw]
    | false => cases select s <;> simp [hw, StepOutcome.ofExec_ne_held]
  · simp [hw]

/-- A step that fires is the reset, or the operation that the phase register and the host select. -/
theorem outcome_next_cases {s t : State} (h : outcome s = .next t) :
    t = applyReset s ∨ ∃ i, select s = .run i ∧ exec i s = .next t := by
  rw [outcome] at h
  split_ifs at h with hw hr
  · cases h
    exact .inl rfl
  · cases hs : select s with
    | run i =>
      rw [hs] at h
      exact .inr ⟨i, rfl, StepOutcome.ofExec_eq_next h⟩
    | held why => simp [hs] at h
    | reserved cw => simp [hs] at h
    | noPhase ph => simp [hs] at h

theorem not_sameBlock_of_outcome_next {s t : State} (h : outcome s = .next t) : ¬ SameBlock s t := by
  intro hsame
  obtain ⟨hhist, hph⟩ := hsame.hist_ph
  rcases outcome_next_cases h with rfl | ⟨i, hs, he⟩
  · simp at hhist
  · rcases exec_moves_of_select hs he with hne | hne
    · exact hne hhist
    · exact hne hph

/-- Settles O12: `select` says when a step is held, and a step that fires records an event or changes the phase. -/
theorem stepHasExactlyOneOfFourOutcomes : Obligations.StepHasExactlyOneOfFourOutcomes := by
  intro s
  refine ⟨fun why => ?_, fun why h => ⟨hostWaits why s, ?_, sameBlock_hostWaits why s⟩,
    fun t h => ⟨?_, not_sameBlock_of_outcome_next h⟩, fun f => ?_, fun r => ?_⟩
  · rw [outcome_eq_held_iff, select_eq_held_iff, State.pairNotTaken_iff]
  · rw [step, h]
    rfl
  · rw [step, h]
  · rw [step]
    cases outcome s <;> simp [held]
  · rw [step]
    cases outcome s <;> simp [held]

end Sys2Proof.Machine
end

section
/-! PROOFS. Rounding to nearest, ties to even (spec 00_scope.md R13, R16). The patterns of a sign, without their sign
bit, are the numbers from 0 on; `magValue` is what each of them counts, in units of the smallest positive value, as if
exponents never ended. It is strictly increasing, so a rounding is the choice between two neighbouring patterns. -/

namespace Sys2Proof.Machine

/-! ### Magnitude patterns -/

/-- What a finite magnitude pattern denotes, in units of the smallest positive value; exponents go on without end. -/
def FloatFormat.magValue (f : FloatFormat) (mag : Nat) : Nat :=
  if mag / 2 ^ f.fracBits = 0 then mag % 2 ^ f.fracBits
  else (2 ^ f.fracBits + mag % 2 ^ f.fracBits) * 2 ^ (mag / 2 ^ f.fracBits - 1)

/-- What a pattern with the sign `neg` and the magnitude pattern `mag` denotes. -/
def FloatFormat.datumOf (f : FloatFormat) (neg : Bool) (mag : Nat) : Datum :=
  if mag < f.infBits then .fin neg (f.magValue mag) (2 ^ f.minExp)
  else if mag = f.infBits then .inf neg else .nan

/-- The magnitude pattern that `FloatFormat.round` chooses before it tests for overflow. -/
def FloatFormat.roundMag (f : FloatFormat) (num den : Nat) : Nat :=
  ulpExp f num den * 2 ^ f.fracBits +
    nearestEven (num * 2 ^ f.minExp) (den * 2 ^ ulpExp f num den)

theorem FloatFormat.round_eq (f : FloatFormat) (neg : Bool) (num den : Nat) :
    f.round neg num den = f.signBits neg + min f.infBits (f.roundMag num den) := by
  rw [FloatFormat.round, FloatFormat.roundMag, min_def]

theorem FloatFormat.infBits_lt (f : FloatFormat) : f.infBits < 2 ^ (f.expBits + f.fracBits) := by
  rw [FloatFormat.infBits, pow_add]
  exact Nat.mul_lt_mul_of_pos_right (Nat.sub_lt (by positivity) one_pos) (by positivity)

/-- Reading takes the sign bit and the magnitude pattern apart. -/
theorem FloatFormat.read_eq (f : FloatFormat) (bits : Nat) :
    f.read bits = f.datumOf (decide (bits / 2 ^ (f.expBits + f.fracBits) % 2 = 1))
      (bits % 2 ^ (f.expBits + f.fracBits)) := by
  have hexp : bits / 2 ^ f.fracBits % 2 ^ f.expBits = bits % 2 ^ (f.expBits + f.fracBits) / 2 ^ f.fracBits := by
    rw [Nat.add_comm, Nat.pow_add, Nat.mod_mul_right_div_self]
  have hfrac : bits % 2 ^ f.fracBits = bits % 2 ^ (f.expBits + f.fracBits) % 2 ^ f.fracBits :=
    (Nat.mod_mod_of_dvd _ (pow_dvd_pow _ (Nat.le_add_left _ _))).symm
  have hlt := Nat.mod_lt bits (show 0 < 2 ^ (f.expBits + f.fracBits) by positivity)
  rw [FloatFormat.read, FloatFormat.datumOf, FloatFormat.magValue, FloatFormat.infBits, hexp, hfrac]
  generalize bits % 2 ^ (f.expBits + f.fracBits) = mag at hlt ⊢
  have hfinite : mag < (2 ^ f.expBits - 1) * 2 ^ f.fracBits ↔ mag / 2 ^ f.fracBits < 2 ^ f.expBits - 1 :=
    (Nat.div_lt_iff_lt_mul (by positivity)).symm
  have htop : mag / 2 ^ f.fracBits < 2 ^ f.expBits :=
    (Nat.div_lt_iff_lt_mul (by positivity)).2 (by rwa [← Nat.pow_add])
  have hsplit := Nat.div_add_mod' mag (2 ^ f.fracBits)
  by_cases he : mag / 2 ^ f.fracBits = 2 ^ f.expBits - 1
  · have hinf : mag = (2 ^ f.expBits - 1) * 2 ^ f.fracBits ↔ mag % 2 ^ f.fracBits = 0 := by
      rw [← he]
      omega
    simp only [he, hfinite, hinf, lt_irrefl, if_true, if_false]
  · have : mag / 2 ^ f.fracBits < 2 ^ f.expBits - 1 := by omega
    rw [if_neg he, if_pos (hfinite.2 this)]
    split_ifs <;> rfl

theorem FloatFormat.signBits_add_div {f : FloatFormat} (neg : Bool) {mag : Nat}
    (h : mag < 2 ^ (f.expBits + f.fracBits)) :
    decide ((f.signBits neg + mag) / 2 ^ (f.expBits + f.fracBits) % 2 = 1) = neg := by
  cases neg <;> simp [FloatFormat.signBits, Nat.div_eq_of_lt h, Nat.add_div_left]

theorem FloatFormat.signBits_add_mod {f : FloatFormat} (neg : Bool) {mag : Nat}
    (h : mag < 2 ^ (f.expBits + f.fracBits)) :
    (f.signBits neg + mag) % 2 ^ (f.expBits + f.fracBits) = mag := by
  cases neg <;> simp [FloatFormat.signBits, Nat.mod_eq_of_lt h]

theorem FloatFormat.read_signBits_add {f : FloatFormat} (neg : Bool) {mag : Nat}
    (h : mag < 2 ^ (f.expBits + f.fracBits)) : f.read (f.signBits neg + mag) = f.datumOf neg mag := by
  rw [f.read_eq, signBits_add_div neg h, signBits_add_mod neg h]

theorem FloatFormat.exists_signBits_add (f : FloatFormat) {bits : Nat}
    (h : bits < 2 ^ (1 + f.expBits + f.fracBits)) :
    ∃ neg mag, mag < 2 ^ (f.expBits + f.fracBits) ∧ bits = f.signBits neg + mag := by
  rw [Nat.add_assoc, Nat.pow_add] at h
  by_cases hs : bits < 2 ^ (f.expBits + f.fracBits)
  · exact ⟨false, bits, hs, by simp [FloatFormat.signBits]⟩
  · refine ⟨true, bits - 2 ^ (f.expBits + f.fracBits), by omega, ?_⟩
    simp only [FloatFormat.signBits, if_true]
    omega

theorem FloatFormat.datumOf_eq_fin {f : FloatFormat} {neg neg' : Bool} {mag num den : Nat}
    (h : f.datumOf neg mag = .fin neg' num den) :
    mag < f.infBits ∧ neg = neg' ∧ num = f.magValue mag ∧ den = 2 ^ f.minExp := by
  rw [FloatFormat.datumOf] at h
  split_ifs at h with hmag
  cases h
  exact ⟨hmag, rfl, rfl, rfl⟩

/-! ### The magnitudes in order -/

/-- On the grid of spacing `2 ^ t`, patterns count in steps of one (the next binade's first point included). -/
theorem FloatFormat.magValue_grid (f : FloatFormat) {t q : Nat} (hnormal : t = 0 ∨ 2 ^ f.fracBits ≤ q)
    (htop : q ≤ 2 ^ (f.fracBits + 1)) : f.magValue (t * 2 ^ f.fracBits + q) = q * 2 ^ t := by
  have hpos : 0 < 2 ^ f.fracBits := by positivity
  rw [Nat.pow_succ] at htop
  by_cases hsub : q < 2 ^ f.fracBits
  · obtain rfl : t = 0 := by omega
    simp [FloatFormat.magValue, Nat.div_eq_of_lt hsub, Nat.mod_eq_of_lt hsub]
  · obtain ⟨r, rfl⟩ := Nat.exists_eq_add_of_le (not_lt.1 hsub)
    rw [show t * 2 ^ f.fracBits + (2 ^ f.fracBits + r) = r + (t + 1) * 2 ^ f.fracBits by ring,
      FloatFormat.magValue, Nat.add_mul_div_right _ _ hpos, Nat.add_mul_mod_self_right]
    rcases Nat.lt_or_eq_of_le (show r ≤ 2 ^ f.fracBits by omega) with hr | rfl
    · simp [Nat.div_eq_of_lt hr, Nat.mod_eq_of_lt hr]
    · simp [Nat.div_self hpos, Nat.pow_succ]
      ring

/-- Every magnitude pattern is on such a grid, together with its successor. -/
theorem FloatFormat.exists_grid (f : FloatFormat) (mag : Nat) :
    ∃ t q, (t = 0 ∨ 2 ^ f.fracBits ≤ q) ∧ q < 2 ^ (f.fracBits + 1) ∧ mag = t * 2 ^ f.fracBits + q := by
  have hfrac := Nat.mod_lt mag (show 0 < 2 ^ f.fracBits by positivity)
  have hsplit := Nat.div_add_mod' mag (2 ^ f.fracBits)
  rw [Nat.pow_succ]
  rcases he : mag / 2 ^ f.fracBits with _ | t
  · rw [he] at hsplit
    exact ⟨0, mag, .inl rfl, by omega, by omega⟩
  · rw [he, Nat.succ_mul] at hsplit
    exact ⟨t, 2 ^ f.fracBits + mag % 2 ^ f.fracBits, .inr (by omega), by omega, by omega⟩

theorem FloatFormat.magValue_strictMono (f : FloatFormat) : StrictMono f.magValue := by
  refine strictMono_nat_of_lt_succ fun mag => ?_
  obtain ⟨t, q, hnormal, htop, rfl⟩ := f.exists_grid mag
  rw [Nat.add_assoc, f.magValue_grid hnormal htop.le, f.magValue_grid (by omega) htop]
  exact Nat.mul_lt_mul_of_pos_right q.lt_succ_self (by positivity)

theorem FloatFormat.magValue_mul_lt {f : FloatFormat} {den a b : Nat} (hden : 0 < den) (h : a < b) :
    f.magValue a * den < f.magValue b * den :=
  Nat.mul_lt_mul_of_pos_right (f.magValue_strictMono h) hden

/-- The lowest bit of a pattern is that of its significand. -/
theorem FloatFormat.mul_two_pow_fracBits_even {f : FloatFormat} (hfrac : 1 ≤ f.fracBits) (n : Nat) :
    n * 2 ^ f.fracBits % 2 = 0 :=
  Nat.mod_eq_zero_of_dvd (dvd_mul_of_dvd_right (dvd_pow_self 2 (Nat.ne_zero_of_lt hfrac)) n)

theorem FloatFormat.signBits_even {f : FloatFormat} (hfrac : 1 ≤ f.fracBits) (neg : Bool) :
    f.signBits neg % 2 = 0 := by
  cases neg <;> simp [FloatFormat.signBits, Nat.pow_add, mul_two_pow_fracBits_even hfrac]

/-! ### The rounding is the nearer of two neighbours -/

/-- The two neighbours that `nearestEven` chooses between, and when it takes which. -/
theorem nearestEven_cases (a b : Nat) :
    (nearestEven a b = a / b ∧ (2 * (a % b) < b ∨ 2 * (a % b) = b ∧ nearestEven a b % 2 = 0)) ∨
      (nearestEven a b = a / b + 1 ∧ (b < 2 * (a % b) ∨ 2 * (a % b) = b ∧ nearestEven a b % 2 = 0)) := by
  rw [nearestEven]
  split_ifs with h <;> omega

/-- The significand of `num / den` before rounding fits its width, and is normal above the subnormal range. -/
theorem ulpExp_spec (f : FloatFormat) (num den : Nat) :
    let q := num * 2 ^ f.minExp / (den * 2 ^ ulpExp f num den)
    (ulpExp f num den = 0 ∨ 2 ^ f.fracBits ≤ q) ∧ q < 2 ^ (f.fracBits + 1) := by
  rw [← Nat.div_div_eq_div_mul, ulpExp]
  generalize num * 2 ^ f.minExp / den = n
  constructor
  · rw [or_iff_not_imp_left, Nat.le_div_iff_mul_le (by positivity), ← Nat.pow_add]
    intro ht
    have hn : n ≠ 0 := by
      rintro rfl
      simp at ht
    rw [Nat.add_sub_cancel' (by omega)]
    exact Nat.log2_self_le hn
  · rw [Nat.div_lt_iff_lt_mul (by positivity), ← Nat.pow_add]
    exact Nat.lt_log2_self.trans_le (Nat.pow_le_pow_right (by decide) (by omega))

/-- How far a magnitude pattern is from `num / den`, in units of one `den`th of the smallest positive value. -/
def FloatFormat.gap (f : FloatFormat) (num den mag : Nat) : Nat :=
  (((f.magValue mag * den : Nat) : Int) - (num * 2 ^ f.minExp : Nat)).natAbs

/-- The largest magnitude pattern that is not above `num / den`. -/
def FloatFormat.floorMag (f : FloatFormat) (num den : Nat) : Nat :=
  ulpExp f num den * 2 ^ f.fracBits + num * 2 ^ f.minExp / (den * 2 ^ ulpExp f num den)

theorem FloatFormat.magValue_floorMag (f : FloatFormat) (num den : Nat) :
    f.magValue (f.floorMag num den) =
      num * 2 ^ f.minExp / (den * 2 ^ ulpExp f num den) * 2 ^ ulpExp f num den := by
  obtain ⟨hnormal, htop⟩ := ulpExp_spec f num den
  rw [FloatFormat.floorMag, f.magValue_grid hnormal htop.le]

theorem FloatFormat.magValue_floorMag_succ (f : FloatFormat) (num den : Nat) :
    f.magValue (f.floorMag num den + 1) = f.magValue (f.floorMag num den) + 2 ^ ulpExp f num den := by
  obtain ⟨hnormal, htop⟩ := ulpExp_spec f num den
  rw [f.magValue_floorMag, FloatFormat.floorMag, Nat.add_assoc, f.magValue_grid (by omega) htop, Nat.succ_mul]

/-- The number to round lies between two neighbouring patterns, `rest` above one and `step - rest` below the other, and
every other pattern is farther away. -/
theorem FloatFormat.gap_cases (f : FloatFormat) (num : Nat) {den : Nat} (hden : 0 < den) (mag : Nat) :
    let step := den * 2 ^ ulpExp f num den
    let rest := num * 2 ^ f.minExp % step
    let k := f.floorMag num den
    rest < step ∧
      ((mag < k ∧ rest < f.gap num den mag) ∨ (mag = k ∧ f.gap num den mag = rest) ∨
        (mag = k + 1 ∧ f.gap num den mag = step - rest) ∨ (k + 1 < mag ∧ step - rest < f.gap num den mag)) := by
  intro step rest k
  have hrest : rest < step := Nat.mod_lt _ (by positivity)
  have hlow : f.magValue k * den + rest = num * 2 ^ f.minExp := by
    rw [f.magValue_floorMag, Nat.mul_assoc, Nat.mul_comm _ den]
    exact Nat.div_add_mod' _ _
  have hhigh : f.magValue (k + 1) * den = f.magValue k * den + step := by
    rw [f.magValue_floorMag_succ, Nat.add_mul, Nat.mul_comm (2 ^ _) den]
  refine ⟨hrest, ?_⟩
  unfold FloatFormat.gap
  rcases lt_trichotomy mag k with h | rfl | h
  · have := f.magValue_mul_lt hden h
    omega
  · omega
  · rcases Nat.lt_or_eq_of_le (show k + 1 ≤ mag from h) with h | rfl
    · have := f.magValue_mul_lt hden h
      omega
    · omega

/-- Rounding takes the nearer of the two, and where both are equally near the even one. -/
theorem FloatFormat.roundMag_cases {f : FloatFormat} (hfrac : 1 ≤ f.fracBits) (num den : Nat) :
    let step := den * 2 ^ ulpExp f num den
    let rest := num * 2 ^ f.minExp % step
    (f.roundMag num den = f.floorMag num den ∧
        (2 * rest < step ∨ 2 * rest = step ∧ f.roundMag num den % 2 = 0)) ∨
      (f.roundMag num den = f.floorMag num den + 1 ∧
        (step < 2 * rest ∨ 2 * rest = step ∧ f.roundMag num den % 2 = 0)) := by
  have heven := mul_two_pow_fracBits_even hfrac (ulpExp f num den)
  have := nearestEven_cases (num * 2 ^ f.minExp) (den * 2 ^ ulpExp f num den)
  rw [FloatFormat.roundMag, FloatFormat.floorMag]
  omega

/-- No magnitude is nearer than the rounding, and where another is as near the rounding is even. -/
theorem FloatFormat.roundMag_nearest {f : FloatFormat} (hfrac : 1 ≤ f.fracBits) (num : Nat) {den : Nat}
    (hden : 0 < den) (mag : Nat) :
    f.gap num den (f.roundMag num den) ≤ f.gap num den mag ∧
      (f.gap num den (f.roundMag num den) = f.gap num den mag → mag ≠ f.roundMag num den →
        f.roundMag num den % 2 = 0) := by
  obtain ⟨hrest, hmag⟩ := f.gap_cases num hden mag
  obtain ⟨-, hround⟩ := f.gap_cases num hden (f.roundMag num den)
  rcases f.roundMag_cases hfrac num den with ⟨hk, hnearer⟩ | ⟨hk, hnearer⟩ <;> omega

/-! ### A number of the format rounds to itself -/

theorem FloatFormat.roundMag_magValue {f : FloatFormat} (hfrac : 1 ≤ f.fracBits) (mag : Nat) :
    f.roundMag (f.magValue mag) (2 ^ f.minExp) = mag := by
  have hself : f.gap (f.magValue mag) (2 ^ f.minExp) mag = 0 := by simp [FloatFormat.gap]
  obtain ⟨hle, -⟩ := f.roundMag_nearest hfrac (f.magValue mag) (Nat.two_pow_pos f.minExp) mag
  have heq : f.magValue (f.roundMag (f.magValue mag) (2 ^ f.minExp)) * 2 ^ f.minExp =
      f.magValue mag * 2 ^ f.minExp := by
    rw [hself, FloatFormat.gap] at hle
    omega
  exact f.magValue_strictMono.injective (Nat.eq_of_mul_eq_mul_right (by positivity) heq)

theorem FloatFormat.round_of_read {f : FloatFormat} (hfrac : 1 ≤ f.fracBits) {bits num den : Nat} {neg : Bool}
    (hbits : bits < 2 ^ (1 + f.expBits + f.fracBits)) (hread : f.read bits = .fin neg num den) :
    f.round neg num den = bits := by
  obtain ⟨neg', mag, hmag, rfl⟩ := f.exists_signBits_add hbits
  rw [read_signBits_add neg' hmag] at hread
  obtain ⟨hfinite, rfl, rfl, rfl⟩ := datumOf_eq_fin hread
  rw [f.round_eq, roundMag_magValue hfrac, min_eq_right hfinite.le]

theorem one_le_fracBits {f : FloatFormat} (h : f = binary32 ∨ f = binary64) : 1 ≤ f.fracBits := by
  rcases h with rfl | rfl <;> decide

theorem two_le_expBits {f : FloatFormat} (h : f = binary32 ∨ f = binary64) : 2 ≤ f.expBits := by
  rcases h with rfl | rfl <;> decide

/-- Settles O51: no magnitude is nearer to a number of the format than its own. -/
theorem roundingARepresentableNumberIsExact : Obligations.RoundingARepresentableNumberIsExact := by
  intro f hf bits neg num den hbits hread
  exact FloatFormat.round_of_read (one_le_fracBits hf) hbits hread

/-! ### Where rounding overflows -/

/-- From an odd pattern the rounding goes up exactly from the midpoint on: there the tie goes to the even one above. -/
theorem FloatFormat.lt_roundMag_iff {f : FloatFormat} (hfrac : 1 ≤ f.fracBits) (num : Nat) {den mag : Nat}
    (hden : 0 < den) (hodd : mag % 2 = 1) :
    mag < f.roundMag num den ↔ (f.magValue mag + f.magValue (mag + 1)) * den ≤ 2 * (num * 2 ^ f.minExp) := by
  obtain ⟨hlow, htie⟩ := f.roundMag_nearest hfrac num hden (mag + 1)
  obtain ⟨hhigh, -⟩ := f.roundMag_nearest hfrac num hden mag
  have hstep := f.magValue_mul_lt hden (Nat.lt_add_one mag)
  generalize f.roundMag num den = k at *
  unfold FloatFormat.gap at *
  rw [Nat.add_mul]
  constructor
  · intro h
    rcases Nat.lt_or_eq_of_le (show mag + 1 ≤ k from h) with h | rfl
    · have := f.magValue_mul_lt hden h
      omega
    · omega
  · intro h
    by_contra hk
    rcases Nat.lt_or_eq_of_le (not_lt.1 hk) with hk | rfl
    · have := f.magValue_mul_lt hden hk
      omega
    · omega

theorem FloatFormat.infBits_eq {f : FloatFormat} (hexp : 2 ≤ f.expBits) :
    f.infBits = (2 * f.bias + 1) * 2 ^ f.fracBits := by
  obtain ⟨e, he⟩ := Nat.exists_eq_add_of_le' hexp
  have hpos := Nat.two_pow_pos (e + 1)
  have hdouble : 2 ^ (e + 2) = 2 * 2 ^ (e + 1) := Nat.pow_succ'
  rw [FloatFormat.infBits, FloatFormat.bias, he, Nat.add_succ_sub_one]
  congr 1
  omega

/-- The largest finite magnitude pattern: it is odd, and what it and the pattern after it count, with `bias = b + 1`. -/
theorem FloatFormat.exists_largest {f : FloatFormat} (hfrac : 1 ≤ f.fracBits) (hexp : 2 ≤ f.expBits) :
    ∃ mag b, f.bias = b + 1 ∧ f.infBits = mag + 1 ∧ mag % 2 = 1 ∧
      f.magValue mag = (2 ^ (f.fracBits + 1) - 1) * 2 ^ (2 * b + 1) ∧
      f.magValue (mag + 1) = 2 ^ (f.fracBits + 1) * 2 ^ (2 * b + 1) := by
  have hbias : 0 < f.bias := Nat.sub_pos_of_lt (Nat.one_lt_two_pow (by omega))
  obtain ⟨b, hb⟩ := Nat.exists_eq_add_of_lt hbias
  have hpos := Nat.two_pow_pos f.fracBits
  have hdouble : 2 ^ (f.fracBits + 1) = 2 * 2 ^ f.fracBits := Nat.pow_succ'
  have hsucc : (2 * b + 1) * 2 ^ f.fracBits + (2 ^ (f.fracBits + 1) - 1) + 1 =
      (2 * b + 1) * 2 ^ f.fracBits + 2 ^ (f.fracBits + 1) := by omega
  refine ⟨(2 * b + 1) * 2 ^ f.fracBits + (2 ^ (f.fracBits + 1) - 1), b, by omega, ?_, ?_,
    f.magValue_grid (by omega) (by omega), ?_⟩
  · rw [hsucc, infBits_eq hexp, hb, hdouble]
    ring
  · have := mul_two_pow_fracBits_even hfrac (2 * b + 1)
    omega
  · rw [hsucc]
    exact f.magValue_grid (by omega) le_rfl

/-- R16: rounding overflows exactly from half a unit past the largest finite number on. -/
theorem FloatFormat.infBits_le_roundMag_iff {f : FloatFormat} (hfrac : 1 ≤ f.fracBits) (hexp : 2 ≤ f.expBits)
    (num : Nat) {den : Nat} (hden : 0 < den) :
    f.infBits ≤ f.roundMag num den ↔
      (2 ^ (f.fracBits + 2) - 1) * 2 ^ f.bias * den ≤ num * 2 ^ (f.fracBits + 1) := by
  obtain ⟨mag, b, hb, hinf, hodd, hlow, hhigh⟩ := f.exists_largest hfrac hexp
  have hmid : 2 ^ (f.fracBits + 1) - 1 + 2 ^ (f.fracBits + 1) = 2 ^ (f.fracBits + 2) - 1 := by
    rw [Nat.pow_succ _ (f.fracBits + 1)]
    omega
  have hunits : 2 * (num * 2 ^ f.minExp) = num * 2 ^ (f.fracBits + 1) * 2 ^ b := by
    rw [FloatFormat.minExp, hb, Nat.add_sub_cancel]
    ring
  have hscale : (2 ^ (f.fracBits + 2) - 1) * 2 ^ (2 * b + 1) * den =
      (2 ^ (f.fracBits + 2) - 1) * 2 ^ f.bias * den * 2 ^ b := by
    rw [hb]
    ring
  rw [hinf, Nat.add_one_le_iff, lt_roundMag_iff hfrac num hden hodd, hlow, hhigh, ← Nat.add_mul, hmid, hunits, hscale,
    Nat.mul_le_mul_right_iff (Nat.two_pow_pos b)]

/-! ### Distances as rationals -/

theorem FloatFormat.abs_sub_eq_gap (f : FloatFormat) (num : Nat) {den : Nat} (hden : 0 < den) (mag : Nat) :
    |(f.magValue mag : Rat) / (2 ^ f.minExp : Nat) - (num : Rat) / den| =
      f.gap num den mag / ((2 ^ f.minExp : Nat) * den) := by
  have hd : (0 : Rat) < den := by exact_mod_cast hden
  rw [FloatFormat.gap, Nat.cast_natAbs, div_sub_div _ _ (by positivity) hd.ne', abs_div,
    abs_of_pos (show (0 : Rat) < (2 ^ f.minExp : Nat) * den by positivity)]
  push_cast
  rw [mul_comm (2 ^ f.minExp : Rat) num]

theorem FloatFormat.read_round (f : FloatFormat) (neg : Bool) (num den : Nat) :
    f.read (f.round neg num den) = f.datumOf neg (min f.infBits (f.roundMag num den)) := by
  rw [f.round_eq, read_signBits_add neg ((min_le_left _ _).trans_lt f.infBits_lt)]

/-- Settles O52: above the threshold the pattern is the infinity's; below it, distances are the gaps of magnitudes. -/
theorem roundingGivesANearestNumber : Obligations.RoundingGivesANearestNumber := by
  intro f hf neg num den hden
  have hfrac := one_le_fracBits hf
  simp only [f.read_round, ← FloatFormat.infBits_le_roundMag_iff hfrac (two_le_expBits hf) num hden]
  split_ifs with hover
  · rw [min_eq_left hover]
    simp [FloatFormat.datumOf]
  rw [not_le] at hover
  refine ⟨f.magValue (f.roundMag num den), 2 ^ f.minExp, ?_, fun bits n' d' hread => ?_⟩
  · rw [min_eq_right hover.le, FloatFormat.datumOf, if_pos hover]
  rw [f.read_eq] at hread
  obtain ⟨-, -, rfl, rfl⟩ := FloatFormat.datumOf_eq_fin hread
  generalize bits % 2 ^ (f.expBits + f.fracBits) = mag
  obtain ⟨hnearest, htie⟩ := FloatFormat.roundMag_nearest hfrac num hden mag
  have hunit : (0 : Rat) < (2 ^ f.minExp : Nat) * den := by positivity
  rw [f.abs_sub_eq_gap num hden, f.abs_sub_eq_gap num hden, div_le_div_iff_of_pos_right hunit,
    div_left_inj' hunit.ne', Nat.cast_le, Nat.cast_inj, f.round_eq, min_eq_right hover.le]
  refine ⟨hnearest, fun hgap hne => ?_⟩
  have heven := htie hgap (by rintro rfl; exact hne rfl)
  have := FloatFormat.signBits_even hfrac neg
  omega

end Sys2Proof.Machine
end

section
/-! PROOFS. What a step of the block can do, once (spec 40_fill_command.md R114): the reset, or one of the moves
below. -/

namespace Sys2Proof.Machine

/-- `u` is `s` after the boundary test of cursor `c` (42_reseed.md R140): reseeded, or left as it is. -/
inductive Tested (c : CursorId) (s : State) : State → Prop
  | reseeded (hoff : s.cfg.m ≤ s.off c) (hdraw : s.nextDraw < s.cfg.m) : Tested c s (afterReseed c s)
  | kept (hoff : s.off c < s.cfg.m) : Tested c s s

/-- The next states of a step with reset low, one constructor per row of the table of 40_fill_command.md R114. -/
inductive Move (s : State) : State → Prop
  | noCommand (hp : s.ph = phIdle) (hport : s.port = none) : Move s (hostWaits .noCommand s)
  | fillZero (hp : s.ph = phIdle) (hport : s.port ≠ none) : Move s
      { s with rem := 0, wr := 0, offers := withoutPortWord s.offers, hist := s.hist ++ [.cmd 0, .done] }
  | fill (count : Nat) (hp : s.ph = phIdle) (hport : s.port ≠ none) (hpos : 1 ≤ count) (hfits : count < 2 ^ 28) :
      Move s { s with
        rem := count, wr := 0, offers := withoutPortWord s.offers, hist := s.hist ++ [.cmd count], ph := phBset }
  | bset (hp : s.ph = phBset) : Move s { s with
      ws := (numWeights s.cfg.num s.o0 s.cfg.n).1, wc := (numWeights s.cfg.num s.o0 s.cfg.n).2,
      kb := batchLength s, j := 0, ph := phMix }
  | pairNotTaken (hp : s.ph = phMix) (hpair : s.pairNotTaken = true) : Move s (hostWaits .pairNotTaken s)
  | sample (hp : s.ph = phMix) (hj : s.j < s.kb) (hin : sampleInBounds s.j s) : Move s (afterMixOne s)
  | leave (hp : s.ph = phMix) (hj : s.kb ≤ s.j) : Move s { s with ph := phAdv }
  | adv (hp : s.ph = phAdv) : Move s
      { s with o0 := s.o0 + s.kb, o1 := s.o1 + s.kb, rem := s.rem - s.kb, ph := phRs0 }
  | rs0 (hp : s.ph = phRs0) {u : State} (hu : Tested .c0 s u) : Move s { u with ph := phRs1 }
  | rs1 (hp : s.ph = phRs1) {u : State} (hu : Tested .c1 s u) : Move s (loopDecision u)

theorem execFill_move {s t : State} {count : Nat} (hp : s.ph = phIdle) (hport : s.port ≠ none)
    (hfits : count < 2 ^ 28) (h : execFill count s = .next t) : Move s t := by
  rw [execFill_eq hp] at h
  split_ifs at h with hc <;> cases h
  · exact .fillZero hp hport
  · exact .fill count hp hport (Nat.one_le_iff_ne_zero.2 hc) hfits

theorem execMix_move {s t : State} (hp : s.ph = phMix) (h : execMix s = .next t) : Move s t := by
  by_cases hpair : s.pairNotTaken = true
  · rw [execMix_held hpair] at h
    cases h
    exact .pairNotTaken hp hpair
  rcases execMix_cases hp with ⟨hj, he⟩ | ⟨hj, w, ws, hws, -⟩ | ⟨hj, -, hin, he⟩ | ⟨-, -, i, k, he⟩
  · rw [he] at h
    cases h
    exact .leave hp hj
  · exact absurd (s.pairNotTaken_iff.2 ⟨hp, hj, w, ws, hws⟩) hpair
  · rw [he] at h
    cases h
    exact .sample hp hj hin
  · rw [he] at h
    cases h

theorem execRs0_move {s t : State} (hp : s.ph = phRs0) (h : execRs0 s = .next t) : Move s t := by
  rw [execRs0_eq hp] at h
  split_ifs at h with hoff hdraw <;> cases h
  · exact .rs0 hp (.reseeded hoff hdraw)
  · exact .rs0 hp (.kept (not_le.1 hoff))

theorem execRs1_move {s t : State} (hp : s.ph = phRs1) (h : execRs1 s = .next t) : Move s t := by
  rw [execRs1_eq hp] at h
  split_ifs at h with hoff hdraw <;> cases h
  · exact .rs1 hp (.reseeded hoff hdraw)
  · exact .rs1 hp (.kept (not_le.1 hoff))

theorem step_of_not_wf {s : State} (hw : s.cfg.wf = false) :
    step s = .refused (.illFormedConfig s.cfg.m s.cfg.n) := by
  simp [step, outcome, hw]

theorem phase_le_of_step_next {s t : State} (hr : s.rst = false) (h : step s = .next t) : s.ph.toNat ≤ 5 := by
  by_contra hp
  cases hw : s.cfg.wf with
  | false =>
    rw [step_of_not_wf hw] at h
    cases h
  | true =>
    rw [step_eq hw, hr, select_noPhase (not_le.1 hp)] at h
    cases h

/-- Everything a step can answer with a next state, from any state at all. -/
theorem step_next_cases {s t : State} (h : step s = .next t) :
    (s.rst = true ∧ t = applyReset s) ∨ (s.rst = false ∧ Move s t) := by
  cases hr : s.rst with
  | true =>
    cases hw : s.cfg.wf with
    | false =>
      rw [step_of_not_wf hw] at h
      cases h
    | true =>
      rw [step_eq hw, hr] at h
      cases h
      exact .inl ⟨rfl, rfl⟩
  | false =>
    obtain ⟨-, ⟨hr', -⟩ | ⟨-, hcases⟩⟩ := step_cases (phase_le_of_step_next hr h) h
    · rw [hr] at hr'
      cases hr'
    refine .inr ⟨rfl, ?_⟩
    rcases hcases with
      ⟨hp, hport, rfl⟩ | ⟨hp, count, hport, hfits, he⟩ | ⟨hp, he⟩ | ⟨hp, he⟩ | ⟨hp, he⟩ | ⟨hp, he⟩ | ⟨hp, he⟩
    · exact .noCommand hp hport
    · exact execFill_move hp hport hfits he
    · rw [execBset_eq hp] at he
      cases he
      exact .bset hp
    · exact execMix_move hp he
    · rw [execAdv_eq hp] at he
      cases he
      exact .adv hp
    · exact execRs0_move hp he
    · exact execRs1_move hp he

end Sys2Proof.Machine
end

section
/-! PROOFS. The register invariant (spec 10_state.md R22, R23, R30): what it says in every phase, what it says in each
one, and that every step keeps it. -/

namespace Sys2Proof.Machine

/-- The clauses of `Inv` that hold in every phase. -/
structure RegisterBounds (s : State) : Prop where
  config : 1 ≤ s.cfg.m ∧ s.cfg.m ≤ s.cfg.n
  built : PoolBuilt s
  index : s.i0 < s.cfg.m ∧ s.i1 < s.cfg.m
  offset : s.o0 ≤ s.cfg.n ∧ s.o1 ≤ s.cfg.n
  span : s.j ≤ s.kb ∧ s.kb ≤ s.cfg.n
  counts : s.rem < 2 ^ 28 ∧ s.wr < 2 ^ 28

/-- What `Inv` says besides, phase by phase. -/
inductive PhaseClause (s : State) : Prop
  | idle (hp : s.ph = phIdle) (hrem : s.rem = 0) (h0 : s.o0 < s.cfg.n) (h1 : s.o1 < s.cfg.n)
  | bset (hp : s.ph = phBset) (hrem : 1 ≤ s.rem) (h0 : s.o0 < s.cfg.n) (h1 : s.o1 < s.cfg.n)
      (hcount : s.wr + s.rem < 2 ^ 28)
  | mix (hp : s.ph = phMix) (hkb : s.kb = batchLength s) (hpos : 1 ≤ s.kb) (hj : s.j ≤ s.wr)
      (hcount : (s.wr - s.j) + s.rem < 2 ^ 28)
  | adv (hp : s.ph = phAdv) (hkb : s.kb = batchLength s) (hpos : 1 ≤ s.kb) (hj : s.j ≤ s.wr)
      (hcount : (s.wr - s.j) + s.rem < 2 ^ 28) (hend : s.j = s.kb)
  | rs0 (hp : s.ph = phRs0) (hcount : s.wr + s.rem < 2 ^ 28)
  | rs1 (hp : s.ph = phRs1) (hcount : s.wr + s.rem < 2 ^ 28) (h0 : s.o0 < s.cfg.m)

theorem Inv.bounds {s : State} (inv : Inv s) : RegisterBounds s := { inv with }

/-- Besides the clause of its own phase a state owes nothing: the phases of the other clauses differ from it. -/
theorem RegisterBounds.inv {s : State} (b : RegisterBounds s) (clause : PhaseClause s) : Inv s := by
  obtain ⟨config, built, index, offset, span, counts⟩ := b
  cases clause <;> constructor <;> simp_all [phIdle, phBset, phMix, phAdv, phRs0, phRs1]

/-- The batch fits both blocks and the request (41_batch_sequencer.md R121). -/
theorem batchLength_le (s : State) :
    batchLength s ≤ s.rem ∧ batchLength s ≤ s.cfg.n - s.o0 ∧ batchLength s ≤ s.cfg.n - s.o1 := by
  unfold batchLength
  omega

theorem batchLength_pos {s : State} (hrem : 1 ≤ s.rem) (h0 : s.o0 < s.cfg.n) (h1 : s.o1 < s.cfg.n) :
    1 ≤ batchLength s := by
  unfold batchLength
  omega

/-- At `ADV` the samples of the batch are delivered: `REM` gives up what `WR` already counts (10_state.md R30). -/
theorem Inv.count_at_adv {s : State} (inv : Inv s) (hp : s.ph = phAdv) :
    s.wr - s.j + s.rem = s.wr + (s.rem - s.kb) := by
  obtain ⟨hkb, -, hwr, -⟩ := inv.batch (.inr hp)
  obtain ⟨hrem, -⟩ := batchLength_le s
  have hend := inv.adv hp
  omega

theorem Tested.bounds {c : CursorId} {s u : State} (h : Tested c s u) (b : RegisterBounds s) : RegisterBounds u := by
  cases h with
  | kept => exact b
  | reseeded _ hdraw =>
    cases c with
    | c0 => exact { b with index := ⟨hdraw, b.index.2⟩, offset := ⟨Nat.zero_le _, b.offset.2⟩ }
    | c1 => exact { b with index := ⟨b.index.1, hdraw⟩, offset := ⟨b.offset.1, Nat.zero_le _⟩ }

/-- A tested offset is below the block count (42_reseed.md R145). -/
theorem Tested.off_lt {c : CursorId} {s u : State} (h : Tested c s u) (hm : 1 ≤ s.cfg.m) : u.off c < s.cfg.m := by
  cases h with
  | kept hoff => exact hoff
  | reseeded => cases c <;> exact hm

/-- The boundary test writes no parameter and neither count. -/
theorem Tested.frame {c : CursorId} {s u : State} (h : Tested c s u) :
    u.cfg = s.cfg ∧ u.rem = s.rem ∧ u.wr = s.wr := by
  cases h with
  | kept => exact ⟨rfl, rfl, rfl⟩
  | reseeded => cases c <;> exact ⟨rfl, rfl, rfl⟩

theorem Tested.cursor1 {s u : State} (h : Tested .c0 s u) : u.i1 = s.i1 ∧ u.o1 = s.o1 := by
  cases h <;> exact ⟨rfl, rfl⟩

theorem Tested.cursor0 {s u : State} (h : Tested .c1 s u) : u.i0 = s.i0 ∧ u.o0 = s.o0 := by
  cases h <;> exact ⟨rfl, rfl⟩

/-- The invariant at a launch; `J <= KB <= N` is the choice `KB = J = 0` (log 5). -/
theorem inv_launch {cfg : Config} {pool : Memory} (config : 1 ≤ cfg.m ∧ cfg.m ≤ cfg.n)
    (built : PoolBuilt (State.launch cfg pool)) : Inv (State.launch cfg pool) := by
  obtain ⟨hm, hn⟩ := config
  have bounds : RegisterBounds (State.launch cfg pool) :=
    ⟨⟨hm, hn⟩, built, ⟨hm, hm⟩, ⟨Nat.div_le_self _ _, Nat.zero_le _⟩, ⟨le_rfl, Nat.zero_le _⟩, by simp⟩
  refine bounds.inv (.idle rfl rfl ?_ ?_)
  · exact Nat.div_lt_self (hm.trans hn) (by decide)
  · exact hm.trans hn

/-- A reset leaves the registers of the launch; what else it leaves, no clause names. -/
theorem inv_applyReset {s : State} (inv : Inv s) : Inv (applyReset s) := { inv_launch inv.config inv.built with }

theorem Move.inv {s t : State} (h : Move s t) (inv : Inv s) : Inv t := by
  have b := inv.bounds
  cases h with
  | noCommand hp => exact { inv with }
  | pairNotTaken hp => exact { inv with }
  | fillZero hp =>
    obtain ⟨-, h0, h1⟩ := inv.idle hp
    exact RegisterBounds.inv { b with counts := by simp } (.idle hp rfl h0 h1)
  | fill count hp _ hpos hfits =>
    obtain ⟨-, h0, h1⟩ := inv.idle hp
    exact RegisterBounds.inv { b with counts := ⟨hfits, by simp⟩ } (.bset rfl hpos h0 h1 (by simpa using hfits))
  | bset hp =>
    obtain ⟨hrem, h0, h1, hcount⟩ := inv.bset hp
    obtain ⟨-, hn, -⟩ := batchLength_le s
    exact RegisterBounds.inv { b with span := ⟨Nat.zero_le _, hn.trans (Nat.sub_le _ _)⟩ }
      (.mix rfl rfl (batchLength_pos hrem h0 h1) (Nat.zero_le _) hcount)
  | sample hp hj =>
    obtain ⟨hkb, hpos, hwr, hcount⟩ := inv.batch (.inl hp)
    obtain ⟨hrem, -⟩ := batchLength_le s
    exact RegisterBounds.inv
      { b with
        span := ⟨hj, b.span.2⟩
        counts := ⟨b.counts.1, show s.wr + 1 < _ by omega⟩ }
      (.mix hp hkb hpos (Nat.succ_le_succ hwr) (by simpa [afterMixOne] using hcount))
  | leave hp hj =>
    obtain ⟨hkb, hpos, hwr, hcount⟩ := inv.batch (.inl hp)
    exact RegisterBounds.inv { b with } (.adv rfl hkb hpos hwr hcount (le_antisymm b.span.1 hj))
  | adv hp =>
    obtain ⟨hkb, -, -, hcount⟩ := inv.batch (.inr hp)
    obtain ⟨-, hfit0, hfit1⟩ := batchLength_le s
    obtain ⟨hle0, hle1⟩ := b.offset
    obtain ⟨hrem, hwr⟩ := b.counts
    have ho0 : s.o0 + s.kb ≤ s.cfg.n := by omega
    have ho1 : s.o1 + s.kb ≤ s.cfg.n := by omega
    rw [inv.count_at_adv hp] at hcount
    exact RegisterBounds.inv
      { b with
        offset := ⟨ho0, ho1⟩
        counts := ⟨(Nat.sub_le _ _).trans_lt hrem, hwr⟩ }
      (.rs0 rfl hcount)
  | rs0 hp hu =>
    obtain ⟨hcfg, hrem, hwr⟩ := hu.frame
    have hcount := inv.rs (.inl hp)
    have h0 := hu.off_lt b.config.1
    exact RegisterBounds.inv { hu.bounds b with }
      (.rs1 rfl (by simpa [hrem, hwr] using hcount) (by simpa [hcfg] using h0))
  | @rs1 hp u hu =>
    obtain ⟨hcfg, hrem, hwr⟩ := hu.frame
    have hcount := inv.rs (.inr hp)
    obtain ⟨hm, hn⟩ := b.config
    have h0 : u.o0 < u.cfg.n := by
      rw [hcfg]
      exact (hu.cursor0.2.trans_lt (inv.rs1 hp)).trans_le hn
    have h1 : u.o1 < u.cfg.n := by
      rw [hcfg]
      exact (hu.off_lt hm).trans_le hn
    rw [loopDecision]
    split_ifs with hzero
    · exact RegisterBounds.inv { hu.bounds b with } (.idle rfl hzero h0 h1)
    · exact RegisterBounds.inv { hu.bounds b with }
        (.bset rfl (Nat.one_le_iff_ne_zero.2 hzero) h0 h1 (by simpa [hrem, hwr] using hcount))

/-- Settles O34: move by move, and the reset (whose `J <= KB` is the choice `KB = J = 0`, log 5). -/
theorem everyStepKeepsTheRegisterInvariant : Obligations.EveryStepKeepsTheRegisterInvariant := by
  intro s t inv h
  rcases step_next_cases h with ⟨-, rfl⟩ | ⟨-, hm⟩
  · exact inv_applyReset inv
  · exact hm.inv inv

end Sys2Proof.Machine
end

section
/-! PROOFS. The registers and the history agree (spec 10_state.md R30, 20_memory.md R63), and offsets settle below `M`
(10_state.md R23 (c)): both kept by every step. -/

namespace Sys2Proof.Machine

/-- The count of the command that runs, read off the registers (10_state.md R30). -/
def commandCount (s : State) : Option Nat :=
  if s.ph = phIdle then none
  else if s.ph = phMix ∨ s.ph = phAdv then some ((s.wr - s.j) + s.rem)
  else some (s.wr + s.rem)

theorem commandCount_idle {s : State} (hp : s.ph = phIdle) : commandCount s = none := if_pos hp

theorem commandCount_batch {s : State} (hp : s.ph = phMix ∨ s.ph = phAdv) :
    commandCount s = some ((s.wr - s.j) + s.rem) := by
  rw [commandCount, if_neg (by rcases hp with hp | hp <;> rw [hp] <;> decide), if_pos hp]

theorem commandCount_boundary {s : State} (hp : s.ph = phBset ∨ s.ph = phRs0 ∨ s.ph = phRs1) :
    commandCount s = some (s.wr + s.rem) := by
  have hne : s.ph ≠ phIdle ∧ ¬(s.ph = phMix ∨ s.ph = phAdv) := by
    rcases hp with hp | hp | hp <;> rw [hp] <;> decide
  rw [commandCount, if_neg hne.1, if_neg hne.2]

/-- Under the invariant the three clauses on the count are one equation, here and in `progress_of_count`. -/
theorem Progress.count {s : State} (inv : Inv s) (h : Progress s) : currentCount s.hist = commandCount s := by
  rcases phase_cases inv.phase with hp | hp | hp | hp | hp | hp
  · rw [h.idle hp, commandCount_idle hp]
  · rw [h.boundary (.inl hp), commandCount_boundary (.inl hp)]
  · rw [h.batch (.inl hp), commandCount_batch (.inl hp)]
  · rw [h.batch (.inr hp), commandCount_batch (.inr hp)]
  · rw [h.boundary (.inr (.inl hp)), commandCount_boundary (.inr (.inl hp))]
  · rw [h.boundary (.inr (.inr hp)), commandCount_boundary (.inr (.inr hp))]

theorem progress_of_count {s : State} (order : s.hist.foldl orderStep (0, true) = (s.wr, true))
    (delivered : (currentOut s.hist).length = s.wr) (count : currentCount s.hist = commandCount s) : Progress s where
  order := order
  delivered := delivered
  idle hp := count.trans (commandCount_idle hp)
  boundary hp := count.trans (commandCount_boundary hp)
  batch hp := count.trans (commandCount_batch hp)

/-- A draw neither starts nor ends a command, and it delivers nothing. -/
theorem Tested.readings {c : CursorId} {s u : State} (h : Tested c s u) :
    u.hist.foldl orderStep (0, true) = s.hist.foldl orderStep (0, true) ∧ currentOut u.hist = currentOut s.hist ∧
      currentCount u.hist = currentCount s.hist ∧ sampledSinceReset u.hist = sampledSinceReset s.hist := by
  cases h with
  | kept => exact ⟨rfl, rfl, rfl, rfl⟩
  | reseeded => simp [afterReseed, afterDraw, orderStep, outStep, countStep, sampledStep]

theorem Progress.applyReset {s : State} (prog : Progress s) : Progress (applyReset s) :=
  progress_of_count (by simp [prog.order, orderStep]) (by simp [outStep]) (by simp [countStep, commandCount])

theorem Move.progress {s t : State} (h : Move s t) (inv : Inv s) (prog : Progress s) : Progress t := by
  have horder := prog.order
  have hout := prog.delivered
  have hcount := prog.count inv
  cases h with
  | noCommand hp => exact { prog with }
  | pairNotTaken hp => exact { prog with }
  | fillZero hp =>
    exact progress_of_count (by simp [horder, orderStep]) (by simp [currentOut, outStep])
      (by simp [commandCount, hp, currentCount, countStep])
  | fill count hp =>
    refine progress_of_count (by simp [horder, orderStep]) (by simp [outStep]) ?_
    rw [commandCount_boundary (.inl rfl)]
    simp [countStep]
  | bset hp =>
    refine progress_of_count horder hout ?_
    rw [commandCount_batch (.inl rfl), Nat.sub_zero, ← commandCount_boundary (.inl hp), ← hcount]
  | sample hp hj =>
    refine progress_of_count (orderStep_sample _ _ _ _ _ horder) ?_ ?_
    · simp [afterMixOne, currentOut_sample, hout]
    · rw [commandCount_batch (.inl hp)] at hcount
      rw [commandCount_batch (s := afterMixOne s) (.inl hp)]
      simpa [afterMixOne, currentCount_sample] using hcount
  | leave hp =>
    rw [commandCount_batch (.inl hp)] at hcount
    refine progress_of_count horder hout ?_
    rw [commandCount_batch (.inr rfl), hcount]
  | adv hp =>
    refine progress_of_count horder hout ?_
    rw [commandCount_boundary (.inr (.inl rfl)), hcount, commandCount_batch (.inr hp), inv.count_at_adv hp]
  | rs0 hp hu =>
    obtain ⟨-, hrem, hwr⟩ := hu.frame
    obtain ⟨hro, hrl, hrc, -⟩ := hu.readings
    refine progress_of_count ?_ ?_ ?_
    · rw [hro, horder, hwr]
    · rw [hrl, hout, hwr]
    · rw [hrc, hcount, commandCount_boundary (.inr (.inl hp)), commandCount_boundary (.inr (.inr rfl)), hrem, hwr]
  | @rs1 hp u hu =>
    obtain ⟨-, hrem, hwr⟩ := hu.frame
    obtain ⟨hro, hrl, hrc, -⟩ := hu.readings
    rw [loopDecision]
    split_ifs
    · exact progress_of_count (by simp [hro, horder, hwr, orderStep]) (by simp [hrl, hout, hwr, outStep])
        (by simp [commandCount, countStep])
    · refine progress_of_count ?_ ?_ ?_
      · rw [hro, horder, hwr]
      · rw [hrl, hout, hwr]
      · rw [hrc, hcount, commandCount_boundary (.inr (.inr hp)), commandCount_boundary (.inl rfl), hrem, hwr]

/-- Settles O35: move by move; a reset leaves `WR = 0` and no command. -/
theorem everyStepKeepsTheProgressOfTheCommand : Obligations.EveryStepKeepsTheProgressOfTheCommand := by
  intro s t inv prog h
  rcases step_next_cases h with ⟨-, rfl⟩ | ⟨-, hm⟩
  · exact prog.applyReset
  · exact hm.progress inv prog

/-! ### Offsets between batches -/

theorem settled_inside_batch {s : State} (hp : s.ph = phMix ∨ s.ph = phAdv ∨ s.ph = phRs0 ∨ s.ph = phRs1) :
    Settled s := by
  have hne : ¬(s.ph = phIdle ∨ s.ph = phBset) := by
    rcases hp with hp | hp | hp | hp <;> rw [hp] <;> decide
  exact fun _ h => absurd h hne

theorem settled_loopDecision {u : State} (h0 : u.o0 < u.cfg.m) (h1 : u.o1 < u.cfg.m) : Settled (loopDecision u) := by
  intro _ _
  rw [loopDecision]
  split_ifs <;> exact ⟨h0, h1⟩

theorem Move.settled {s t : State} (h : Move s t) (inv : Inv s) (hs : Settled s) : Settled t := by
  cases h with
  | noCommand hp => exact hs
  | pairNotTaken hp => exact hs
  | fillZero hp =>
    intro hsampled _
    exact hs (by simpa [sampledSinceReset, sampledStep] using hsampled) (.inl hp)
  | fill count hp =>
    intro hsampled _
    exact hs (by simpa [sampledStep] using hsampled) (.inl hp)
  | bset hp => exact settled_inside_batch (.inl rfl)
  | sample hp hj => exact settled_inside_batch (.inl hp)
  | leave hp => exact settled_inside_batch (.inr (.inl rfl))
  | adv hp => exact settled_inside_batch (.inr (.inr (.inl rfl)))
  | rs0 hp hu => exact settled_inside_batch (.inr (.inr (.inr rfl)))
  | @rs1 hp u hu =>
    obtain ⟨hcfg, -⟩ := hu.frame
    obtain ⟨-, ho0⟩ := hu.cursor0
    refine settled_loopDecision ?_ ?_ <;> rw [hcfg]
    · exact ho0.trans_lt (inv.rs1 hp)
    · exact hu.off_lt inv.config.1

/-- Settles O36: only `RS1` ends a batch, after both boundary tests, and a reset forgets the samples. -/
theorem everyStepKeepsOffsetsSettled : Obligations.EveryStepKeepsOffsetsSettled := by
  intro s t inv hs h
  rcases step_next_cases h with ⟨-, rfl⟩ | ⟨-, hm⟩
  · intro hsampled
    simp [sampledStep] at hsampled
  · exact hm.settled inv hs

end Sys2Proof.Machine
end

section
/-! PROOFS. What every step keeps of the history and the cursor registers (spec 10_state.md R21, R36), and where the
invariants start: the launch (R25, R37). -/

namespace Sys2Proof.Machine

theorem Tested.hist_prefix {c : CursorId} {s u : State} (h : Tested c s u) : s.hist <+: u.hist := by
  cases h with
  | kept => exact List.prefix_rfl
  | reseeded => simp [afterReseed, afterDraw]

theorem loopDecision_hist_prefix (u : State) : u.hist <+: (loopDecision u).hist := by
  rw [loopDecision]
  split_ifs <;> simp

theorem Move.hist_prefix {s t : State} (h : Move s t) : s.hist <+: t.hist := by
  cases h with
  | noCommand | bset | pairNotTaken | leave | adv => exact List.prefix_rfl
  | fillZero | fill | sample => exact List.prefix_append _ _
  | rs0 _ hu => exact hu.hist_prefix
  | rs1 _ hu => exact hu.hist_prefix.trans (loopDecision_hist_prefix _)

/-- Settles O27: each move and the reset append their events. -/
theorem historyOnlyGrows : Obligations.HistoryOnlyGrows := by
  intro s t h
  rcases step_next_cases h with ⟨-, rfl⟩ | ⟨-, hm⟩
  · exact List.prefix_append _ _
  · exact hm.hist_prefix

@[simp] theorem loopDecision_i0 (u : State) : (loopDecision u).i0 = u.i0 := by
  rw [loopDecision]
  split_ifs <;> rfl

@[simp] theorem loopDecision_o0 (u : State) : (loopDecision u).o0 = u.o0 := by
  rw [loopDecision]
  split_ifs <;> rfl

/-- Settles O29: `ADV` leaves the indices alone, `RS0` and `RS1` each the other cursor, any other move all four. -/
theorem cursorRegistersHaveTheirWriters : Obligations.CursorRegistersHaveTheirWriters := by
  intro s t h hr
  rcases step_next_cases h with ⟨hr', -⟩ | ⟨-, hm⟩
  · rw [hr] at hr'
    cases hr'
  cases hm with
  | noCommand | fillZero | fill | bset | pairNotTaken | sample | leave =>
    exact ⟨absurd rfl, absurd rfl, absurd rfl, absurd rfl⟩
  | adv hp => exact ⟨absurd rfl, fun _ => .inl hp, absurd rfl, fun _ => .inl hp⟩
  | rs0 hp hu =>
    obtain ⟨hi1, ho1⟩ := hu.cursor1
    exact ⟨fun _ => hp, fun _ => .inr hp, absurd hi1, absurd ho1⟩
  | rs1 hp hu =>
    obtain ⟨hi0, ho0⟩ := hu.cursor0
    exact ⟨absurd (by simp [hi0]), absurd (by simp [ho0]), fun _ => hp, fun _ => .inr hp⟩

/-! ### The launch -/

/-- Settles O32: the launch is the table of R25 and R37, register by register. -/
theorem launchStateIsTheResetTable : Obligations.LaunchStateIsTheResetTable :=
  fun _ _ => ⟨_, rfl, rfl, rfl, rfl, rfl, rfl, rfl, rfl, rfl, rfl, rfl, rfl⟩

theorem progress_launch (cfg : Config) (pool : Memory) : Progress (State.launch cfg pool) :=
  progress_of_count rfl rfl rfl

/-- Settles O33: the registers are those of a reset, and the history is the one event `Reset`. -/
theorem launchMeetsTheInvariants : Obligations.LaunchMeetsTheInvariants := by
  refine ⟨fun cfg pool hw built => ⟨inv_launch (by simpa [Config.wf] using hw) built, progress_launch cfg pool, ?_, ?_⟩,
    inv_launch (by decide) ⟨rfl, rfl⟩, progress_launch _ _⟩
  · intro hsampled
    cases hsampled
  · simp [Mono, Event.mono]

end Sys2Proof.Machine
end

section
/-! PROOFS. The step is `exec` of what is decoded (spec 10_state.md R27), and what a step does not read: the history
(R36), and at `IDLE` the transient registers (R29). -/

namespace Sys2Proof.Machine

/-- The word on the port of an idle block, decoded, is what runs (40_fill_command.md R100). -/
theorem select_command {s : State} {cw : CmdWord} {i : Instr} (hp : s.ph = phIdle) (hport : s.port = some cw)
    (hdec : decode (.cmd cw) = .ok i) : select s = .run i := by
  simp only [select, if_pos hp, hport, hdec]

theorem select_busy {s : State} {i : Instr} (hp : s.ph ≠ phIdle) (hdec : decode (.uop s.ph) = .ok i) :
    select s = if s.pairNotTaken then .held .pairNotTaken else .run i := by
  simp only [select, if_neg hp, hdec]

/-- A pair can be waited for at `MIX` alone. -/
theorem decode_of_pairNotTaken {s : State} {i : Instr} (hpair : s.pairNotTaken = true)
    (hdec : decode (.uop s.ph) = .ok i) : i = .mix := by
  rw [(s.pairNotTaken_iff.1 hpair).1] at hdec
  cases hdec
  rfl

/-- Settles O6: `select` is the decoder's answer, and a held `MIX` answers what `exec` does. -/
theorem stepRunsTheDecodedOperation : Obligations.StepRunsTheDecodedOperation := by
  intro s hw hr
  rw [step_eq hw, hr]
  refine ⟨fun cw i hp hport hdec => ?_, fun i hp hdec => ?_⟩
  · rw [select_command hp hport hdec]
    rfl
  · rw [select_busy hp hdec]
    by_cases hpair : s.pairNotTaken = true
    · obtain rfl := decode_of_pairNotTaken hpair hdec
      simp [hpair, exec, execMix_held hpair]
    · simp [hpair]

/-! ### Equations of `MIX`, faults included -/

theorem mixSample_eq (ws wc : Weight) (j : Nat) (s : State) :
    mixSample ws wc j s =
      if s.i0 < s.cfg.m ∧ s.o0 + j < s.cfg.n then
        if s.i1 < s.cfg.m ∧ s.o1 + j < s.cfg.n then
          .ok { s with hist := s.hist ++ sampleEvents ws wc j s, wr := s.wr + 1 }
        else .error (.poolIndex s.i1 (s.o1 + j))
      else .error (.poolIndex s.i0 (s.o0 + j)) := by
  split_ifs with h0 h1
  · exact mixSample_eq_ok ⟨h0, h1⟩
  all_goals simp only [mixSample, sampleOffset, State.idx_c0, State.off_c0, State.idx_c1, State.off_c1]
  · rw [poolRead_eq_ok h0.1 h0.2]
    simp only [State.log_i1, State.log_o1]
    rw [poolRead_eq_error (by simpa using h1)]
  · rw [poolRead_eq_error h0]

theorem execMix_eq {s : State} (hp : s.ph = phMix) :
    execMix s =
      if s.pairNotTaken then held .pairNotTaken s
      else if s.j < s.kb then
        if s.i0 < s.cfg.m ∧ s.o0 + s.j < s.cfg.n then
          if s.i1 < s.cfg.m ∧ s.o1 + s.j < s.cfg.n then .next (afterMixOne s)
          else .fault (.poolIndex s.i1 (s.o1 + s.j))
        else .fault (.poolIndex s.i0 (s.o0 + s.j))
      else .next { s with ph := phAdv } := by
  rw [execMix, if_pos hp, mixOne, mixSample_eq]
  split_ifs <;> rfl

/-! ### Two runs side by side -/

theorem SameOutcome.ite {R : State → State → Prop} {c : Prop} [Decidable c]
    {a a' b b' : Host.Outcome State Fault Refusal} (ha : SameOutcome R a a') (hb : SameOutcome R b b') :
    SameOutcome R (if c then a else b) (if c then a' else b') := by
  split_ifs
  · exact ha
  · exact hb

/-- Two steps in which the same is selected agree where the operations that may be selected agree. -/
theorem SameOutcome.step {R : State → State → Prop} {s t : State} (hcfg : t.cfg = s.cfg) (hrst : t.rst = s.rst)
    (hsel : select t = select s) (hreset : R (applyReset s) (applyReset t))
    (hwait : ∀ why, R (hostWaits why s) (hostWaits why t))
    (hexec : ∀ i, select s = .run i → SameOutcome R (exec i s) (exec i t)) :
    SameOutcome R (step s) (step t) := by
  cases hw : s.cfg.wf with
  | false =>
    rw [step_of_not_wf hw, step_of_not_wf (hcfg ▸ hw), hcfg]
    exact rfl
  | true =>
    rw [step_eq hw, step_eq (hcfg ▸ hw), hrst, hsel]
    refine .ite hreset ?_
    cases hs : select s with
    | held why => exact hwait why
    | run i => exact hexec i hs
    | reserved cw => exact rfl
    | noPhase ph => exact rfl

/-! ### The history is never read (10_state.md R36) -/

/-- `s` with another history. -/
def State.withHist (s : State) (h : List Event) : State := { s with hist := h }

theorem loopDecision_withHist (s : State) (h : List Event) :
    SameButHist (loopDecision s) (loopDecision (s.withHist h)) := by
  unfold loopDecision State.withHist
  split_ifs <;> rfl

theorem exec_withHist {s : State} {i : Instr} (hs : select s = .run i) (h : List Event) :
    SameOutcome SameButHist (exec i s) (exec i (s.withHist h)) := by
  rcases select_run_cases hs with
    ⟨hp, count, rfl⟩ | ⟨hp, rfl⟩ | ⟨hp, -, rfl⟩ | ⟨hp, rfl⟩ | ⟨hp, rfl⟩ | ⟨hp, rfl⟩ <;>
    have hp' : (s.withHist h).ph = _ := hp <;> dsimp only [exec]
  · rw [execFill_eq hp, execFill_eq hp']
    split_ifs <;> exact rfl
  · rw [execBset_eq hp, execBset_eq hp']
    exact rfl
  · rw [execMix_eq hp, execMix_eq hp']
    exact .ite rfl (.ite (.ite (.ite rfl rfl) rfl) rfl)
  · rw [execAdv_eq hp, execAdv_eq hp']
    exact rfl
  · rw [execRs0_eq hp, execRs0_eq hp']
    exact .ite (.ite rfl rfl) rfl
  · rw [execRs1_eq hp, execRs1_eq hp']
    exact .ite (.ite (loopDecision_withHist (afterReseed .c1 s) _) rfl) (loopDecision_withHist s h)

/-- Settles O30: the phase, the port and the pair that waits select the operation, and no operation asks the history. -/
theorem historyIsNeverRead : Obligations.HistoryIsNeverRead := by
  intro s t hst
  obtain ⟨h, rfl⟩ : ∃ h, s.withHist h = t := ⟨t.hist, hst⟩
  exact .step rfl rfl rfl rfl (fun _ => rfl) fun _ hs => exec_withHist hs h

/-! ### The transient registers are dead at `IDLE` (10_state.md R29) -/

/-- `s` with other transient registers (10_state.md R30). -/
def State.withTransient (s : State) (rem kb j wr : Nat) (ws wc : Weight) : State :=
  { s with rem := rem, kb := kb, j := j, wr := wr, ws := ws, wc := wc }

section
variable {s : State} (rem kb j wr : Nat) (ws wc : Weight)

/-- An idle block looks at its port alone. -/
theorem select_withTransient (hp : s.ph = phIdle) : select (s.withTransient rem kb j wr ws wc) = select s := by
  have hp' : (s.withTransient rem kb j wr ws wc).ph = phIdle := hp
  rw [select, if_pos hp', select, if_pos hp]
  rfl

theorem exec_withTransient {i : Instr} (hp : s.ph = phIdle) (hs : select s = .run i) :
    SameOutcome SameButTransient (exec i s) (exec i (s.withTransient rem kb j wr ws wc)) := by
  have hp' : (s.withTransient rem kb j wr ws wc).ph = phIdle := hp
  rcases select_idle hp with ⟨-, hs'⟩ | ⟨cw, -, -, hs'⟩ | ⟨cw, -, -, hs'⟩ <;> rw [hs'] at hs <;> cases hs
  dsimp only [exec]
  rw [execFill_eq hp, execFill_eq hp']
  split_ifs <;> exact rfl

end

theorem core_run_succ {s t : State} (k : Nat) (h : step s = .next t) :
    Sys2Proof.core.run (k + 1) s = Sys2Proof.core.run k t := by
  have hcore : Sys2Proof.core.step s = .next t := h
  simp only [Host.Core.run, hcore]

theorem core_run_one (s : State) : Sys2Proof.core.run 1 s = step s := by
  have hcore : Sys2Proof.core.step s = step s := rfl
  simp only [Host.Core.run, hcore]
  cases step s <;> rfl

theorem step_bset {s : State} (hw : s.cfg.wf = true) (hr : s.rst = false) (hp : s.ph = phBset) :
    step s = execBset s := by
  rw [step_eq hw, hr, select_bset hp]
  rfl

/-- After it took a command of at least one sample, the block sets up a batch of it. -/
theorem run_two_of_command {s : State} {cw : CmdWord} (hw : s.cfg.wf = true) (hr : s.rst = false) (hp : s.ph = phIdle)
    (hport : s.port = some cw) (hop : opField cw = 0x1#4) (hcount : countField cw ≠ 0#28) :
    Sys2Proof.core.run 2 s = execBset { s with
      rem := (countField cw).toNat, wr := 0, offers := withoutPortWord s.offers,
      hist := s.hist ++ [.cmd (countField cw).toNat], ph := phBset } := by
  have hdec : decode (.cmd cw) = .ok (.fill (countField cw).toNat) := by rw [decode_cmd, if_pos hop]
  have hpos : (countField cw).toNat ≠ 0 := fun h => hcount (BitVec.eq_of_toNat_eq h)
  have hfirst : step s = _ := (stepRunsTheDecodedOperation s hw hr).1 cw _ hp hport hdec
  rw [exec, execFill_eq hp, if_neg hpos] at hfirst
  exact (core_run_succ 1 hfirst).trans ((core_run_one _).trans (step_bset hw hr rfl))

/-- Settles O31: an idle block selects by its port; `FILL` writes `REM` and `WR`, `BSET` the other four. -/
theorem transientRegistersAreDeadAtIdle : Obligations.TransientRegistersAreDeadAtIdle := by
  intro s t hst hp
  obtain ⟨rem, kb, j, wr, ws, wc, rfl⟩ : ∃ rem kb j wr ws wc, s.withTransient rem kb j wr ws wc = t :=
    ⟨_, _, _, _, _, _, hst⟩
  refine ⟨.step rfl rfl (select_withTransient _ _ _ _ _ _ hp) rfl (fun _ => rfl)
    fun _ hs => exec_withTransient _ _ _ _ _ _ hp hs, fun cw hw hr hport hop hcount => ?_⟩
  rw [run_two_of_command hw hr hp hport hop hcount,
    run_two_of_command (s := s.withTransient rem kb j wr ws wc) hw hr hp hport hop hcount,
    execBset_eq rfl, execBset_eq rfl]
  exact ⟨_, rfl, rfl⟩

end Sys2Proof.Machine
end

section
/-! PROOFS. The pool (spec 20_memory.md R51 to R57, 43_pool_construction.md R166): linear addresses, reads, and the pool
that a launch makes of its blocks. -/

namespace Sys2Proof.Machine

/-! ### Linear addresses (20_memory.md R57) -/

theorem linearAddress_lt {m n i j : Nat} (hi : i < m) (hj : j < n) : linearAddress n i j < m * n :=
  calc i * n + j < (i + 1) * n := by rw [Nat.succ_mul]; omega
    _ ≤ m * n := Nat.mul_le_mul_right n hi

theorem linearAddress_div {n j : Nat} (i : Nat) (hj : j < n) : linearAddress n i j / n = i := by
  rw [linearAddress, Nat.mul_comm, Nat.mul_add_div (Nat.zero_lt_of_lt hj), Nat.div_eq_of_lt hj, Nat.add_zero]

theorem linearAddress_mod {n j : Nat} (i : Nat) (hj : j < n) : linearAddress n i j % n = j := by
  rw [linearAddress, Nat.mul_add_mod_of_lt hj]

/-! ### The pool reader (20_memory.md R53, R55) -/

/-- A read that answers was in bounds; it answers the sample and records itself. -/
theorem poolRead_inv {s t : State} {i j : Nat} {v : F32} (h : poolRead s i j = .ok (v, t)) :
    (i < s.cfg.m ∧ j < s.cfg.n) ∧ v = s.sample i j ∧ t = s.log (.poolRd i j v) := by
  by_cases hin : i < s.cfg.m ∧ j < s.cfg.n
  · rw [poolRead_eq_ok hin.1 hin.2] at h
    cases h
    exact ⟨hin, rfl, rfl⟩
  · rw [poolRead_eq_error hin] at h
    cases h

/-- Settles O43: quotient and remainder by `N` give `i` and `j` back; a pool read writes the history alone. -/
theorem poolAddressesAreDistinctAndReadsRepeat : Obligations.PoolAddressesAreDistinctAndReadsRepeat := by
  refine ⟨fun m n i j i' j' hi hj hj' => ⟨linearAddress_lt hi hj, fun heq => ⟨?_, ?_⟩⟩, fun s t i j v h => ?_⟩
  · rw [← linearAddress_div i hj, heq, linearAddress_div i' hj']
  · rw [← linearAddress_mod i hj, heq, linearAddress_mod i' hj']
  · obtain ⟨⟨hi, hj⟩, rfl, rfl⟩ := poolRead_inv h
    exact ⟨rfl, rfl, _, poolRead_eq_ok hi hj⟩

/-! ### A pool made of blocks (43_pool_construction.md R166) -/

theorem Memory.within_cons (size a : Nat) (x : F32) (mem : Memory) :
    Memory.within size ((a, x) :: mem) = true ↔ a < size ∧ Memory.within size mem = true := by
  simp [Memory.within]

theorem Memory.within_write {size a : Nat} (x : F32) {mem : Memory} (h : Memory.within size mem = true)
    (ha : a < size) : Memory.within size (Memory.write mem a x) = true := by
  induction mem with
  | nil =>
    rw [Memory.write]
    split_ifs
    · rfl
    · exact (Memory.within_cons ..).2 ⟨ha, rfl⟩
  | cons cell mem ih =>
    obtain ⟨hcell, hmem⟩ := (Memory.within_cons ..).1 h
    rw [Memory.write]
    split_ifs
    · exact h
    · exact (Memory.within_cons ..).2 ⟨ha, h⟩
    · exact hmem
    · exact (Memory.within_cons ..).2 ⟨ha, hmem⟩
    · exact (Memory.within_cons ..).2 ⟨hcell, ih hmem⟩

theorem Memory.within_writeAll {size a : Nat} {xs : List F32} {mem : Memory} (h : Memory.within size mem = true)
    (ha : a + xs.length ≤ size) : Memory.within size (Memory.writeAll mem a xs) = true := by
  induction xs generalizing mem a with
  | nil => exact h
  | cons x xs ih =>
    rw [List.length_cons] at ha
    exact ih (Memory.within_write x h (by omega)) (by omega)

/-- Stores from `a` on leave the samples before `a` alone. -/
theorem Memory.read_writeAll_below {a b : Nat} (xs : List F32) {mem : Memory} (w : Memory.wf mem = true) (h : b < a) :
    Memory.read (Memory.writeAll mem a xs) b = Memory.read mem b := by
  induction xs generalizing mem a with
  | nil => rfl
  | cons x xs ih =>
    rw [Memory.writeAll, ih (Memory.wf_write a x w) (by omega), Memory.read_write a b x w, if_neg (by omega)]

theorem Memory.read_writeAll {a k : Nat} {x : F32} {xs : List F32} {mem : Memory} (w : Memory.wf mem = true)
    (h : xs[k]? = some x) : Memory.read (Memory.writeAll mem a xs) (a + k) = x := by
  induction xs generalizing mem a k with
  | nil => simp at h
  | cons y ys ih =>
    have wy := Memory.wf_write a y w
    rw [Memory.writeAll]
    cases k with
    | zero =>
      obtain rfl : y = x := by simpa using h
      rw [Nat.add_zero a, Memory.read_writeAll_below ys wy (Nat.lt_add_one a), Memory.read_write a a y w, if_pos rfl]
    | succ k =>
      rw [Nat.add_comm k 1, ← Nat.add_assoc]
      exact ih wy h

/-- `M` blocks of `N` samples, one behind the other, have sample `(i, j)` at its linear address. -/
theorem getElem?_flatten_linearAddress {n i j : Nat} {blocks : List (List F32)} (hlen : ∀ b ∈ blocks, b.length = n)
    (hi : i < blocks.length) (hj : j < n) :
    blocks.flatten[linearAddress n i j]? = blocks[i]?.bind (·[j]?) := by
  induction blocks generalizing i with
  | nil => simp at hi
  | cons b blocks ih =>
    obtain ⟨hb, hrest⟩ := List.forall_mem_cons.1 hlen
    cases i with
    | zero => simp [linearAddress, List.getElem?_append_left (hb ▸ hj)]
    | succ i =>
      have haddr : linearAddress n (i + 1) j = b.length + linearAddress n i j := by
        rw [linearAddress, linearAddress, hb, Nat.succ_mul]
        omega
      rw [haddr, List.flatten_cons, List.getElem?_append_right (Nat.le_add_right _ _), Nat.add_sub_cancel_left,
        ih hrest (Nat.lt_of_succ_lt_succ hi), List.getElem?_cons_succ]

theorem length_flatten_blocks {n : Nat} {blocks : List (List F32)} (hlen : ∀ b ∈ blocks, b.length = n) :
    blocks.flatten.length = blocks.length * n := by
  rw [List.length_flatten, List.map_congr_left hlen, List.map_const', List.sum_replicate, smul_eq_mul]

/-- Settles O44: the samples are stored in address order, each later store above the earlier ones. -/
theorem poolOfBlocksHoldsEverySample : Obligations.PoolOfBlocksHoldsEverySample := by
  intro cfg blocks hm hn
  have hsize : blocks.flatten.length = cfg.m * cfg.n := by rw [length_flatten_blocks hn, hm]
  refine ⟨⟨Memory.wf_ofBlocks blocks, Memory.within_writeAll rfl (by simp [hsize])⟩, fun i j hi hj => ?_⟩
  have hlt : linearAddress cfg.n i j < blocks.flatten.length := hsize ▸ linearAddress_lt hi hj
  have hread := Memory.read_writeAll (a := 0) Memory.wf_nil (List.getElem?_eq_getElem hlt)
  rw [← getElem?_flatten_linearAddress hn (hm ▸ hi) hj, List.getElem?_eq_getElem hlt, ← hread, Nat.zero_add]
  rfl

end Sys2Proof.Machine
end

section
/-! PROOFS. What no step touches, and what every step delivers and completes (spec 20_memory.md R51, R62, R63). -/

namespace Sys2Proof.Machine

/-! ### The launch parameters -/

theorem Tested.pool {c : CursorId} {s u : State} (h : Tested c s u) : u.pool = s.pool := by
  cases h with
  | kept => rfl
  | reseeded => simp [afterReseed, afterDraw]

@[simp] theorem loopDecision_cfg (u : State) : (loopDecision u).cfg = u.cfg := by
  rw [loopDecision]
  split_ifs <;> rfl

@[simp] theorem loopDecision_pool (u : State) : (loopDecision u).pool = u.pool := by
  rw [loopDecision]
  split_ifs <;> rfl

theorem Move.cfg_pool {s t : State} (h : Move s t) : t.cfg = s.cfg ∧ t.pool = s.pool := by
  cases h with
  | noCommand | fillZero | fill | bset | pairNotTaken | sample | leave | adv => exact ⟨rfl, rfl⟩
  | rs0 _ hu => exact ⟨hu.frame.1, hu.pool⟩
  | rs1 _ hu => exact ⟨by rw [loopDecision_cfg, hu.frame.1], by rw [loopDecision_pool, hu.pool]⟩

/-- Settles O26: no move and no reset writes `M`, `N`, `NUM` or the pool, and these are all a sample is read from. -/
theorem poolIsNeverWritten : Obligations.PoolIsNeverWritten := by
  intro s t h
  have hkept : t.cfg = s.cfg ∧ t.pool = s.pool := by
    rcases step_next_cases h with ⟨-, rfl⟩ | ⟨-, hm⟩
    · exact ⟨rfl, rfl⟩
    · exact hm.cfg_pool
  obtain ⟨hcfg, hpool⟩ := hkept
  exact ⟨hcfg, hpool, fun i j => by rw [State.sample, State.sample, hcfg, hpool]⟩

/-! ### The output is mono -/

/-- Appending an event that is no pair, or a mono one, keeps the history mono. -/
theorem Mono.append_event {hist : List Event} {e : Event} (h : Mono hist) (he : e.mono = true) :
    Mono (hist ++ [e]) :=
  (mono_append _ _).2 ⟨h, by simpa [Mono] using he⟩

theorem Tested.mono {c : CursorId} {s u : State} (h : Tested c s u) (hs : Mono s.hist) : Mono u.hist := by
  cases h with
  | kept => exact hs
  | reseeded =>
    simpa [afterReseed, afterDraw] using hs.append_event rfl

theorem loopDecision_mono {u : State} (h : Mono u.hist) : Mono (loopDecision u).hist := by
  rw [loopDecision]
  split_ifs
  · exact h.append_event rfl
  · exact h

theorem Move.mono {s t : State} (h : Move s t) (hs : Mono s.hist) : Mono t.hist := by
  cases h with
  | noCommand | bset | pairNotTaken | leave | adv => exact hs
  | fillZero => exact (mono_append _ _).2 ⟨hs, by simp [Mono, Event.mono]⟩
  | fill => exact hs.append_event rfl
  | sample => exact (mono_append _ _).2 ⟨hs, mono_sample _ _ _ _⟩
  | rs0 _ hu => exact hu.mono hs
  | rs1 _ hu => exact loopDecision_mono (hu.mono hs)

/-- Settles O37: the one move that delivers a pair puts the same value on both channels. -/
theorem everyStepKeepsTheOutputMono : Obligations.EveryStepKeepsTheOutputMono := by
  intro s t hs h
  rcases step_next_cases h with ⟨-, rfl⟩ | ⟨-, hm⟩
  · exact hs.append_event rfl
  · exact hm.mono hs

/-! ### A command that completes -/

/-- Only `RS1` takes a busy block to `IDLE`, and only with nothing left to deliver (42_reseed.md R143). -/
theorem Move.completes {s t : State} (h : Move s t) (hs : s.ph ≠ phIdle) (ht : t.ph = phIdle) :
    s.ph = phRs1 ∧ s.rem = 0 ∧ t.wr = s.wr := by
  cases h with
  | noCommand hp | fillZero hp | fill _ hp => exact absurd hp hs
  | bset | leave | adv | rs0 => cases ht
  | pairNotTaken hp | sample hp => exact absurd ht hs
  | @rs1 hp u hu =>
    obtain ⟨-, hrem, hwr⟩ := hu.frame
    rw [loopDecision] at ht ⊢
    split_ifs at ht ⊢ with hzero
    · exact ⟨hp, hrem ▸ hzero, hwr⟩
    · exact absurd ht (by decide : phBset ≠ phIdle)

theorem Inv.wf {s : State} (inv : Inv s) : s.cfg.wf = true := by simpa [Config.wf] using inv.config

/-- Settles O39: at the end of a command `REM = 0`, so `WR` is its count, and `Progress` says that `WR` pairs were
delivered in order; `FILL 0` ends at once. -/
theorem completedFillDeliveredItsCount : Obligations.CompletedFillDeliveredItsCount := by
  refine ⟨fun s t inv prog hr hbusy h ht => ?_, fun s inv hr hp hport => ?_⟩
  · rcases step_next_cases h with ⟨hr', -⟩ | ⟨-, hm⟩
    · rw [hr] at hr'
      cases hr'
    obtain ⟨hp, hrem, hwr⟩ := hm.completes ((State.busy_iff s).1 hbusy) ht
    have hcount := prog.boundary (.inr (.inr hp))
    have prog' := hm.progress inv prog
    rw [hrem, Nat.add_zero, ← hwr] at hcount
    exact ⟨t.wr, hcount, prog'.delivered, prog'.order⟩
  · have hstep := (stepRunsTheDecodedOperation s inv.wf hr).1 _ (.fill 0) hp hport (by decide)
    rw [exec, execFill_eq hp, if_pos rfl] at hstep
    exact ⟨_, hstep, hp, by simp [currentOut, outStep]⟩

end Sys2Proof.Machine
end

section
/-! PROOFS. Under the premises of 70_reset_and_hazards.md R208 no run faults, and a host that obeys its duties (R216) goes
on obeying them. -/

namespace Sys2Proof.Machine

/-! ### Draws -/

theorem DrawsInRange.nextDraw_lt {s : State} (h : DrawsInRange s) (hm : 1 ≤ s.cfg.m) : s.nextDraw < s.cfg.m := by
  rw [← drawInRange_iff, State.drawInRange]
  cases hd : s.draws with
  | nil => exact decide_eq_true hm
  | cons d ds => simpa using h d (by simp [hd])

@[simp] theorem loopDecision_draws (u : State) : (loopDecision u).draws = u.draws := by
  rw [loopDecision]
  split_ifs <;> rfl

theorem Tested.draws_suffix {c : CursorId} {s u : State} (h : Tested c s u) : u.draws <:+ s.draws := by
  cases h with
  | kept => exact List.suffix_rfl
  | reseeded => simpa [afterReseed, afterDraw] using List.tail_suffix _

/-- A step takes listed draws from the front and lists no new ones. -/
theorem Move.draws_suffix {s t : State} (h : Move s t) : t.draws <:+ s.draws := by
  cases h with
  | noCommand | fillZero | fill | bset | pairNotTaken | sample | leave | adv => exact List.suffix_rfl
  | rs0 _ hu => exact hu.draws_suffix
  | rs1 _ hu => simpa using hu.draws_suffix

theorem step_draws_suffix {s t : State} (h : step s = .next t) : t.draws <:+ s.draws := by
  rcases step_next_cases h with ⟨-, rfl⟩ | ⟨-, hm⟩
  · exact List.suffix_rfl
  · exact hm.draws_suffix

theorem DrawsInRange.step {s t : State} (hs : DrawsInRange s) (h : step s = .next t) : DrawsInRange t := by
  intro d hd
  rw [(poolIsNeverWritten s t h).1]
  exact hs d ((step_draws_suffix h).subset hd)

/-! ### No operation faults -/

/-- Inside a batch both pool reads are in bounds (20_memory.md R54, 41_batch_sequencer.md R121). -/
theorem Inv.sampleInBounds {s : State} (inv : Inv s) (hp : s.ph = phMix) (hj : s.j < s.kb) : sampleInBounds s.j s := by
  obtain ⟨hkb, -⟩ := inv.batch (.inl hp)
  obtain ⟨-, hfit0, hfit1⟩ := batchLength_le s
  obtain ⟨hi0, hi1⟩ := inv.index
  exact ⟨⟨hi0, by omega⟩, hi1, by omega⟩

theorem execMix_answers {s : State} (inv : Inv s) (hp : s.ph = phMix) : ∃ t, execMix s = .next t := by
  rcases execMix_cases hp with ⟨-, he⟩ | ⟨-, w, ws, -, he⟩ | ⟨-, -, -, he⟩ | ⟨hj, hout, -⟩
  · exact ⟨_, he⟩
  · exact ⟨_, he⟩
  · exact ⟨_, he⟩
  · exact absurd (inv.sampleInBounds hp hj) hout

theorem execRs0_answers {s : State} (hp : s.ph = phRs0) (hd : s.nextDraw < s.cfg.m) : ∃ t, execRs0 s = .next t := by
  rw [execRs0_eq hp, if_pos hd]
  split_ifs <;> exact ⟨_, rfl⟩

theorem execRs1_answers {s : State} (hp : s.ph = phRs1) (hd : s.nextDraw < s.cfg.m) : ∃ t, execRs1 s = .next t := by
  rw [execRs1_eq hp, if_pos hd]
  split_ifs <;> exact ⟨_, rfl⟩

theorem exec_answers {s : State} {i : Instr} (inv : Inv s) (hdraws : DrawsInRange s) (hs : select s = .run i) :
    ∃ t, exec i s = .next t := by
  have hd := hdraws.nextDraw_lt inv.config.1
  rcases select_run_cases hs with
    ⟨hp, count, rfl⟩ | ⟨hp, rfl⟩ | ⟨hp, -, rfl⟩ | ⟨hp, rfl⟩ | ⟨hp, rfl⟩ | ⟨hp, rfl⟩
  · exact ⟨_, execFill_eq hp⟩
  · exact ⟨_, execBset_eq hp⟩
  · exact execMix_answers inv hp
  · exact ⟨_, execAdv_eq hp⟩
  · exact execRs0_answers hp hd
  · exact execRs1_answers hp hd

/-- Where the phase is one of the six codes, an operation is selected, the host is waited for, or an idle block has a
reserved word on its port. -/
theorem select_of_phase_le {s : State} (h : s.ph.toNat ≤ 5) :
    (∃ why, select s = .held why) ∨ (∃ i, select s = .run i) ∨
      ∃ cw, s.port = some cw ∧ opField cw ≠ 0x1#4 ∧ select s = .reserved cw := by
  rcases phase_cases h with hp | hp | hp | hp | hp | hp
  · rcases select_idle hp with ⟨-, hs⟩ | ⟨cw, -, -, hs⟩ | hs
    · exact .inl ⟨_, hs⟩
    · exact .inr (.inl ⟨_, hs⟩)
    · exact .inr (.inr hs)
  · exact .inr (.inl ⟨_, select_bset hp⟩)
  · rw [select_mix hp]
    split_ifs
    · exact .inl ⟨_, rfl⟩
    · exact .inr (.inl ⟨_, rfl⟩)
  · exact .inr (.inl ⟨_, select_adv hp⟩)
  · exact .inr (.inl ⟨_, select_rs0 hp⟩)
  · exact .inr (.inl ⟨_, select_rs1 hp⟩)

/-- Under the premises a step answers a next state, unless a reserved word is on the port. -/
theorem step_answers {s : State} (inv : Inv s) (hdraws : DrawsInRange s) :
    (∃ t, step s = .next t) ∨ ∃ cw, s.port = some cw ∧ opField cw ≠ 0x1#4 ∧ step s = .refused (.reservedCommand cw) := by
  rw [step_eq inv.wf]
  cases s.rst with
  | true => exact .inl ⟨_, rfl⟩
  | false =>
    rcases select_of_phase_le inv.phase with ⟨why, hs⟩ | ⟨i, hs⟩ | ⟨cw, hport, hop, hs⟩ <;> rw [hs]
    · exact .inl ⟨_, rfl⟩
    · exact .inl (exec_answers inv hdraws hs)
    · exact .inr ⟨cw, hport, hop, rfl⟩

theorem step_ne_fault {s : State} (inv : Inv s) (hdraws : DrawsInRange s) (f : Fault) : step s ≠ .fault f := by
  rcases step_answers inv hdraws with ⟨t, h⟩ | ⟨cw, -, -, h⟩ <;> rw [h] <;> exact nofun

theorem noFault_of_inv {s : State} (inv : Inv s) (hdraws : DrawsInRange s) : NoFault s := by
  intro k
  induction k generalizing s with
  | zero => exact fun f => nofun
  | succ k ih =>
    intro f
    rcases step_answers inv hdraws with ⟨t, h⟩ | ⟨cw, -, -, h⟩
    · rw [core_run_succ k h]
      exact ih (everyStepKeepsTheRegisterInvariant s t inv h) (hdraws.step h) f
    · have hcore : Sys2Proof.core.step s = .refused (.reservedCommand cw) := h
      simp [Host.Core.run, hcore]

/-! ### The host's words -/

/-- The clauses of `HostObeys` on the host's list of words: FILL commands, each behind the first after a wait. -/
structure OffersObey (offers : List Offer) : Prop where
  fills : ∀ o ∈ offers, opField o.word = 0x1#4
  apart : ∀ o ∈ offers.tail, 1 ≤ o.delay

theorem OffersObey.withoutPortWord {offers : List Offer} (h : OffersObey offers) :
    OffersObey (withoutPortWord offers) := by
  obtain ⟨fills, apart⟩ := h
  rcases offers with _ | ⟨⟨_ | d, cw⟩, rest⟩
  · exact ⟨fills, apart⟩
  · exact ⟨fun o ho => fills o (List.mem_cons_of_mem _ ho), fun o ho => apart o (List.mem_of_mem_tail ho)⟩
  · exact ⟨fills, apart⟩

theorem OffersObey.oneStepNearer {offers : List Offer} (h : OffersObey offers) : OffersObey (oneStepNearer offers) := by
  obtain ⟨fills, apart⟩ := h
  rcases offers with _ | ⟨⟨_ | d, cw⟩, rest⟩
  · exact ⟨fills, apart⟩
  · exact ⟨fills, apart⟩
  · rw [List.forall_mem_cons] at fills
    exact ⟨List.forall_mem_cons.2 fills, apart⟩

theorem State.port_congr {s t : State} (h : t.offers = s.offers) : t.port = s.port := by
  rw [State.port, State.port, h]

/-- Behind the word that left the port no other one waits on it. -/
theorem port_of_withoutPortWord {s t : State} (h : OffersObey s.offers)
    (ht : t.offers = withoutPortWord s.offers) : t.port = none := by
  obtain ⟨-, apart⟩ := h
  rcases hs : s.offers with _ | ⟨⟨_ | d, cw⟩, rest⟩ <;> rw [hs] at ht apart
  · exact State.port_of_nil ht
  · rcases rest with _ | ⟨⟨_ | d, cw'⟩, rest⟩
    · exact State.port_of_nil ht
    · exact absurd (apart _ List.mem_cons_self) (Nat.not_succ_le_zero 0)
    · exact State.port_of_waiting ht
  · exact State.port_of_waiting ht

theorem Tested.offers {c : CursorId} {s u : State} (h : Tested c s u) : u.offers = s.offers := by
  cases h with
  | kept => rfl
  | reseeded => simp [afterReseed, afterDraw]

@[simp] theorem loopDecision_offers (u : State) : (loopDecision u).offers = u.offers := by
  rw [loopDecision]
  split_ifs <;> rfl

/-- What a move does to the host's words: at an idle block the host waits or its word is taken; a busy one lets them
be. -/
theorem Move.offers_cases {s t : State} (h : Move s t) :
    (t.ph = phIdle ∧ t.offers = oneStepNearer s.offers) ∨ t.offers = withoutPortWord s.offers ∨
      (s.ph ≠ phIdle ∧ t.offers = s.offers) := by
  cases h with
  | noCommand hp => exact .inl ⟨hp, rfl⟩
  | fillZero | fill => exact .inr (.inl rfl)
  | bset hp | pairNotTaken hp | sample hp | leave hp | adv hp => exact .inr (.inr ⟨by rw [hp]; decide, rfl⟩)
  | rs0 hp hu => exact .inr (.inr ⟨by rw [hp]; decide, hu.offers⟩)
  | rs1 hp hu => exact .inr (.inr ⟨by rw [hp]; decide, by rw [loopDecision_offers, hu.offers]⟩)

theorem HostObeys.offersObey {s : State} (h : HostObeys s) : OffersObey s.offers := ⟨h.fills, h.waitsBetween⟩

theorem not_busy_of_idle {s : State} (hp : s.ph = phIdle) : s.busy ≠ true := fun h => (State.busy_iff s).1 h hp

theorem Move.keeps_host_words {s t : State} (h : Move s t) (host : HostObeys s) :
    OffersObey t.offers ∧ (t.busy = true → t.port = none) := by
  have obey := host.offersObey
  rcases h.offers_cases with ⟨hp, ho⟩ | ho | ⟨hp, ho⟩
  · exact ⟨ho ▸ obey.oneStepNearer, fun hb => absurd hb (not_busy_of_idle hp)⟩
  · exact ⟨ho ▸ obey.withoutPortWord, fun _ => port_of_withoutPortWord obey ho⟩
  · exact ⟨ho ▸ obey, fun _ => (State.port_congr ho).trans (host.waitsForCompletion ((State.busy_iff s).2 hp))⟩

theorem applyReset_keeps_host_words {s : State} (host : HostObeys s) :
    OffersObey (applyReset s).offers ∧ ((applyReset s).busy = true → (applyReset s).port = none) := by
  refine ⟨?_, fun hb => absurd hb (not_busy_of_idle rfl)⟩
  rw [State.applyReset_offers]
  split_ifs
  · exact host.offersObey.withoutPortWord
  · exact host.offersObey

theorem HostObeys.step {s t : State} (host : HostObeys s) (inv : Inv s) (h : step s = .next t) : HostObeys t := by
  have words : OffersObey t.offers ∧ (t.busy = true → t.port = none) := by
    rcases step_next_cases h with ⟨-, rfl⟩ | ⟨-, hm⟩
    · exact applyReset_keeps_host_words host
    · exact hm.keeps_host_words host
  obtain ⟨⟨fills, apart⟩, port⟩ := words
  exact ⟨(everyStepKeepsTheRegisterInvariant s t inv h).built, fills, port, apart, host.source.step h⟩

/-- An obedient host has no reserved word on the port. -/
theorem HostObeys.port_is_fill {s : State} {cw : CmdWord} (host : HostObeys s) (hport : s.port = some cw) :
    opField cw = 0x1#4 := by
  obtain ⟨rest, ho⟩ := State.port_eq_some hport
  exact host.fills ⟨0, cw⟩ (by simp [ho])

/-- Settles O38: inside a batch both reads are in bounds and every draw is in range; no other operation can fault, and
the premises hold again after the step. -/
theorem noStepFaultsUnderThePremises : Obligations.NoStepFaultsUnderThePremises := by
  intro s inv hdraws
  refine ⟨step_ne_fault inv hdraws, fun t => hdraws.step, noFault_of_inv inv hdraws, fun host => ?_⟩
  rcases step_answers inv hdraws with ⟨t, h⟩ | ⟨cw, hport, hop, -⟩
  · exact ⟨t, h, host.step inv h⟩
  · exact absurd (host.port_is_fill hport) hop

end Sys2Proof.Machine
end

section
/-! PROOFS. The decoder and the encoder are inverse to each other (spec 30_encoding.md R81 to R86). -/

namespace Sys2Proof

/-! ### Format CMD -/

/-- The bits outside the opcode table's mask are `COUNT` (30_encoding.md R81, R82). -/
theorem countMask_toNat (cw : CmdWord) : (cw &&& 0x0FFFFFFF#32).toNat = (countField cw).toNat := by
  rw [BitVec.toNat_and, countField, BitVec.extractLsb'_toNat, Nat.shiftRight_zero]
  exact Nat.and_two_pow_sub_one_eq_mod cw.toNat 28

/-- The table's mask and value test `OP` (30_encoding.md R83). -/
theorem opMask_eq_value_iff (cw : CmdWord) : cw &&& 0xF0000000#32 = 0x10000000#32 ↔ opField cw = 0x1#4 := by
  rw [opMask_eq]
  refine ⟨fun h => ?_, fun h => by rw [h]; rfl⟩
  have hop := congrArg opField h
  rwa [opField, BitVec.extractLsb'_append_eq_left] at hop

/-- A command word is its two fields, `OP` above `COUNT` (30_encoding.md R81). -/
theorem opField_append_countField (cw : CmdWord) : opField cw ++ countField cw = cw :=
  (BitVec.extractLsb'_append_extractLsb'_eq_extractLsb' (Nat.zero_add 28).symm).trans BitVec.extractLsb'_eq_self

theorem encodeFill_countField {cw : CmdWord} (hop : opField cw = 0x1#4) :
    encodeFill (countField cw).toNat = cw := by
  rw [encodeFill, BitVec.ofNat_toNat, BitVec.setWidth_eq, ← hop, opField_append_countField]

theorem decode_encodeFill {count : Nat} (hfits : count < 2 ^ 28) :
    decode (.cmd (encodeFill count)) = .ok (.fill count) := by
  rw [decode_cmd, if_pos (opField_encodeFill count), countField_encodeFill, BitVec.toNat_ofNat, Nat.mod_eq_of_lt hfits]

/-- Settles O3: the two masks of the table pick out `OP` and `COUNT`. -/
theorem commandDecodingFollowsTheMask : Obligations.CommandDecodingFollowsTheMask := by
  intro cw
  simp only [decode_cmd, opMask_eq_value_iff, countMask_toNat]

/-! ### Format UOP -/

/-- Settles O4: the eight codes of the phase register, one by one. -/
theorem phaseCodeSelectsTheMicroOperation : Obligations.PhaseCodeSelectsTheMicroOperation := by
  unfold Obligations.PhaseCodeSelectsTheMicroOperation
  decide

theorem encode_of_decode_uop {ph : PhaseCode} {i : Instr} (h : decode (.uop ph) = .ok i) : encode i = .uop ph := by
  rw [phaseCodeSelectsTheMicroOperation] at h
  split_ifs at h with hbset hmix hadv hrs0 hrs1 <;> cases h <;> symm
  · exact congrArg Code.uop hbset
  · exact congrArg Code.uop hmix
  · exact congrArg Code.uop hadv
  · exact congrArg Code.uop hrs0
  · exact congrArg Code.uop hrs1

/-! ### Both formats -/

/-- Settles O1: a count of 28 bits comes back out of its field; a micro-operation's code is a constant. -/
theorem decodeOfEncodeIsTheOperation : Obligations.DecodeOfEncodeIsTheOperation := by
  intro i hwf
  cases i with
  | fill count => exact decode_encodeFill (of_decide_eq_true hwf)
  | bset | mix | adv | rs0 | rs1 => rfl

/-- Settles O2: a FILL word is put together again from its fields; each micro-operation has the one code. -/
theorem decodedCodeIsTheEncoding : Obligations.DecodedCodeIsTheEncoding := by
  intro c i h
  refine ⟨?_, decode_wf h⟩
  cases c with
  | cmd cw =>
    rw [decode_cmd] at h
    split_ifs at h with hop
    cases h
    exact congrArg Code.cmd (encodeFill_countField hop)
  | uop ph => exact encode_of_decode_uop h

/-- Settles O5: each word of the table, and the codes of `ADV` and `RS1`, evaluated. -/
theorem specWordsDecode : Obligations.SpecWordsDecode := by
  unfold Obligations.SpecWordsDecode
  decide

end Sys2Proof
end

section
/-! PROOFS. What the micro-operations leave unchanged (spec 30_encoding.md R86, the column of writes), in every state:
also where `PH` does not select the operation (log 12). -/

namespace Sys2Proof.Machine

/-! ### What every micro-operation keeps -/

/-- A micro-operation that `PH` does not select does nothing (log 12). -/
theorem exec_of_ph_ne {s : State} {i : Instr} {ph : PhaseCode} (hi : encode i = .uop ph) (hp : s.ph ≠ ph) :
    exec i s = .next s := by
  cases i with
  | fill => cases hi
  | bset | mix | adv | rs0 | rs1 =>
    cases hi
    exact if_neg hp

theorem eq_of_exec_of_ph_ne {s t : State} {i : Instr} {ph : PhaseCode} (hi : encode i = .uop ph) (hp : s.ph ≠ ph)
    (h : exec i s = .next t) : t = s := by
  rw [exec_of_ph_ne hi hp] at h
  cases h
  rfl

theorem execBset_move {s t : State} (hp : s.ph = phBset) (h : execBset s = .next t) : Move s t := by
  rw [execBset_eq hp] at h
  cases h
  exact .bset hp

theorem execAdv_move {s t : State} (hp : s.ph = phAdv) (h : execAdv s = .next t) : Move s t := by
  rw [execAdv_eq hp] at h
  cases h
  exact .adv hp

theorem exec_move {s t : State} {i : Instr} (hi : encode i = .uop s.ph) (h : exec i s = .next t) : Move s t := by
  cases i with
  | fill => cases hi
  | bset => exact execBset_move (Code.uop.inj hi).symm h
  | mix => exact execMix_move (Code.uop.inj hi).symm h
  | adv => exact execAdv_move (Code.uop.inj hi).symm h
  | rs0 => exact execRs0_move (Code.uop.inj hi).symm h
  | rs1 => exact execRs1_move (Code.uop.inj hi).symm h

/-- No micro-operation writes the pool, and the history only grows. -/
theorem exec_keeps_hist_pool {s t : State} {i : Instr} {ph : PhaseCode} (hi : encode i = .uop ph)
    (h : exec i s = .next t) : s.hist <+: t.hist ∧ ∀ a, Memory.read t.pool a = Memory.read s.pool a := by
  by_cases hp : s.ph = ph
  · have hm : Move s t := exec_move (by rw [hi, hp]) h
    exact ⟨hm.hist_prefix, fun a => by rw [hm.cfg_pool.2]⟩
  · rw [eq_of_exec_of_ph_ne hi hp h]
    exact ⟨List.prefix_rfl, fun _ => rfl⟩

/-! ### Batches -/

theorem exec_bset_frame {s t : State} (h : exec .bset s = .next t) :
    t = { s with ws := t.ws, wc := t.wc, kb := t.kb, j := t.j, ph := t.ph } := by
  by_cases hp : s.ph = phBset
  · rw [exec, execBset_eq hp] at h
    cases h
    rfl
  · rw [eq_of_exec_of_ph_ne rfl hp h]

theorem exec_adv_frame {s t : State} (h : exec .adv s = .next t) :
    t = { s with o0 := t.o0, o1 := t.o1, rem := t.rem, ph := t.ph } := by
  by_cases hp : s.ph = phAdv
  · rw [exec, execAdv_eq hp] at h
    cases h
    rfl
  · rw [eq_of_exec_of_ph_ne rfl hp h]

/-- `MIX` that leaves the batch writes `PH`, a held one the host's delays, a delivered sample the rest. -/
theorem exec_mix_frame {s t : State} (h : exec .mix s = .next t) :
    t = { s with j := t.j, wr := t.wr, ph := t.ph, hist := t.hist, waits := t.waits } := by
  by_cases hp : s.ph = phMix
  · rw [exec] at h
    rcases execMix_cases hp with ⟨-, he⟩ | ⟨-, w, ws, -, he⟩ | ⟨-, -, -, he⟩ | ⟨-, -, i, k, he⟩ <;>
      rw [he] at h <;> cases h <;> rfl
  · rw [eq_of_exec_of_ph_ne rfl hp h]

/-- Settles O24: the three frames; history and pool as of every micro-operation. -/
theorem batchFrame : Obligations.BatchFrame := by
  intro s t
  exact ⟨fun h => ⟨exec_bset_frame h, (exec_keeps_hist_pool rfl h).2⟩,
    fun h => ⟨exec_adv_frame h, (exec_keeps_hist_pool rfl h).2⟩,
    fun h => ⟨exec_mix_frame h, exec_keeps_hist_pool rfl h⟩⟩

/-! ### Reseeds -/

/-- The loop decision is done or goes on to another batch (42_reseed.md R143). -/
theorem loopDecision_cases (u : State) :
    loopDecision u = { fillDone u with ph := phIdle } ∨ loopDecision u = { u with ph := phBset } := by
  rw [loopDecision]
  split_ifs
  · exact .inl rfl
  · exact .inr rfl

theorem exec_rs0_frame {s t : State} (h : exec .rs0 s = .next t) :
    t = { s with i0 := t.i0, o0 := t.o0, ph := t.ph, hist := t.hist, draws := t.draws, taken := t.taken } := by
  by_cases hp : s.ph = phRs0
  · rw [exec, execRs0_eq hp] at h
    split_ifs at h <;> cases h <;> rfl
  · rw [eq_of_exec_of_ph_ne rfl hp h]

theorem exec_rs1_frame {s t : State} (h : exec .rs1 s = .next t) :
    t = { s with i1 := t.i1, o1 := t.o1, ph := t.ph, hist := t.hist, draws := t.draws, taken := t.taken } := by
  by_cases hp : s.ph = phRs1
  · rw [exec, execRs1_eq hp] at h
    split_ifs at h <;> cases h
    · rcases loopDecision_cases (afterReseed .c1 s) with he | he <;> (rw [he]; rfl)
    · rcases loopDecision_cases s with he | he
      · rw [he]; rfl
      · rw [he]
  · rw [eq_of_exec_of_ph_ne rfl hp h]

/-- Settles O25: the boundary test writes its own cursor and the reselection source, the loop decision the phase. -/
theorem reseedFrame : Obligations.ReseedFrame := by
  intro s t
  exact ⟨fun h => ⟨exec_rs0_frame h, exec_keeps_hist_pool rfl h⟩,
    fun h => ⟨exec_rs1_frame h, exec_keeps_hist_pool rfl h⟩⟩

end Sys2Proof.Machine
end

section
/-! PROOFS. The command port and `FILL` (spec 40_fill_command.md R101, R102, R104, R114): an idle block waits, or takes
the word on its port. -/

namespace Sys2Proof.Machine

/-! ### An idle block that waits -/

theorem step_noCommand {s : State} (hw : s.cfg.wf = true) (hr : s.rst = false) (hp : s.ph = phIdle)
    (hport : s.port = none) : step s = .next (hostWaits .noCommand s) := by
  have hsel : select s = .held .noCommand := (select_eq_held_iff s _).2 (.inl ⟨rfl, hp, hport⟩)
  rw [step_eq hw, hr, hsel]
  rfl

theorem hostWaits_noCommand_of_offers {s : State} {offers : List Offer} (h : oneStepNearer s.offers = offers) :
    hostWaits .noCommand s = { s with offers := offers } := by
  rw [← h]
  rfl

/-- Settles O7: the held step of an idle block lowers the delay of the first word to come, if there is one. -/
theorem idleBlockWithoutCommandIsHeld : Obligations.IdleBlockWithoutCommandIsHeld := by
  intro s hw hr hp
  refine ⟨fun ho => ?_, fun delay cw rest ho => ?_⟩
  · have hnearer : oneStepNearer s.offers = s.offers := by rw [ho]; rfl
    rw [step_noCommand hw hr hp (State.port_of_nil ho), hostWaits_noCommand_of_offers hnearer]
  · have hnearer : oneStepNearer s.offers = ⟨delay, cw⟩ :: rest := by rw [ho]; rfl
    rw [step_noCommand hw hr hp (State.port_of_waiting ho), hostWaits_noCommand_of_offers hnearer]

/-! ### A command that is taken -/

/-- Settles O14: the word leaves the port, and the rest is the acceptance step. -/
theorem fillIsAccepted : Obligations.FillIsAccepted :=
  fun s _ hp => ⟨withoutPortWord s.offers, execFill_eq hp⟩

/-- Settles O15: `0x10000000` is `FILL 0`. -/
theorem fillZeroCompletesAtOnce : Obligations.FillZeroCompletesAtOnce := by
  intro s hw hr hp hport
  have hstep : step s = execFill 0 s :=
    (stepRunsTheDecodedOperation s hw hr).1 _ (.fill 0) hp hport (by decide)
  rw [execFill_eq hp, if_pos rfl] at hstep
  exact ⟨_, hstep⟩

/-- Settles O23: at a busy block `FILL` changes nothing, at an idle one what the acceptance step names. -/
theorem fillFrame : Obligations.FillFrame := by
  intro s t count h
  rw [exec] at h
  by_cases hp : s.ph = phIdle
  · rw [execFill_eq hp] at h
    split_ifs at h <;> cases h <;> exact ⟨rfl, List.prefix_append _ _, fun _ => rfl⟩
  · rw [execFill, if_neg hp] at h
    cases h
    exact ⟨rfl, List.prefix_rfl, fun _ => rfl⟩

/-! ### Where the phase goes (40_fill_command.md R114) -/

theorem wf_of_step_next {s t : State} (h : step s = .next t) : s.cfg.wf = true := by
  by_contra hw
  rw [step_of_not_wf (Bool.eq_false_of_not_eq_true hw)] at h
  cases h

/-- A step at an idle block with a word on its port takes that word's `FILL`. -/
theorem execFill_of_step_next {s t : State} {cw : CmdWord} (hr : s.rst = false) (hp : s.ph = phIdle)
    (hport : s.port = some cw) (h : step s = .next t) : execFill (countField cw).toNat s = .next t := by
  rw [step_eq (wf_of_step_next h), hr] at h
  rcases select_idle hp with ⟨hnone, -⟩ | ⟨cw', hport', -, hs⟩ | ⟨cw', -, -, hs⟩
  · rw [hport] at hnone
    cases hnone
  · rw [hport] at hport'
    cases hport'
    simpa [hs, exec] using h
  · simp [hs] at h

theorem execFill_ph {s t : State} {count : Nat} (hp : s.ph = phIdle) (h : execFill count s = .next t) :
    t.ph = if count = 0 then phIdle else phBset := by
  rw [execFill_eq hp] at h
  split_ifs at h ⊢ <;> cases h
  · exact hp
  · rfl

/-- The loop decision ends the command where nothing is left to produce. -/
theorem loopDecision_ph_eq (u : State) : (loopDecision u).ph = if u.rem = 0 then phIdle else phBset := by
  rw [loopDecision]
  split_ifs <;> rfl

theorem execMix_ph {s t : State} (hp : s.ph = phMix) (h : execMix s = .next t) :
    t.ph = if s.j < s.kb then phMix else phAdv := by
  rcases execMix_cases hp with ⟨hj, he⟩ | ⟨hj, w, ws, -, he⟩ | ⟨hj, -, -, he⟩ | ⟨-, -, i, k, he⟩ <;>
    rw [he] at h <;> cases h
  · rw [if_neg (not_lt.2 hj)]
  · rw [if_pos hj, ← hp]
  · rw [if_pos hj, ← hp]
    rfl

theorem execRs1_ph_eq {s t : State} (hp : s.ph = phRs1) (h : execRs1 s = .next t) :
    t.ph = if s.rem = 0 then phIdle else phBset := by
  rw [execRs1_eq hp] at h
  split_ifs at h <;> cases h <;> exact loopDecision_ph_eq _

/-- With reset low, the step of a busy block is the micro-operation whose code is in `PH`. -/
theorem step_uop {s : State} {ph : PhaseCode} (i : Instr) (hw : s.cfg.wf = true) (hr : s.rst = false)
    (hi : encode i = .uop ph) (hp : s.ph = ph) : step s = exec i s := by
  cases i with
  | fill => cases hi
  | bset | mix | adv | rs0 | rs1 =>
    cases hi
    exact (stepRunsTheDecodedOperation s hw hr).2 _ (by rw [hp]; decide) (by rw [hp]; rfl)

/-- Settles O13: each row is the phase that its operation leaves behind. -/
theorem phaseTransitionsFollowTheTable : Obligations.PhaseTransitionsFollowTheTable := by
  intro s t h
  have hw := wf_of_step_next h
  refine ⟨fun hr => ?_, fun hr => ⟨fun hp hport => ?_, fun cw hp hport => ?_, fun hp => ?_, fun hp => ?_, fun hp => ?_,
    fun hp => ?_, fun hp => ?_⟩⟩
  · rw [step_eq hw, hr] at h
    cases h
    rfl
  · rw [step_noCommand hw hr hp hport] at h
    cases h
    rfl
  · rw [execFill_ph hp (execFill_of_step_next hr hp hport h)]
    exact if_congr (BitVec.toNat_eq (y := 0#28)).symm rfl rfl
  · exact execBset_ph hp ((step_uop .bset hw hr rfl hp).symm.trans h)
  · exact execMix_ph hp ((step_uop .mix hw hr rfl hp).symm.trans h)
  · exact execAdv_ph hp ((step_uop .adv hw hr rfl hp).symm.trans h)
  · exact execRs0_ph hp ((step_uop .rs0 hw hr rfl hp).symm.trans h)
  · exact execRs1_ph_eq hp ((step_uop .rs1 hw hr rfl hp).symm.trans h)

end Sys2Proof.Machine
end

section
/-! PROOFS. The big-step rule of `FILL` (spec 40_fill_command.md R103) batch by batch: what a batch leaves behind, that
the loop ends (R105), and the steady state (R112). -/

namespace Sys2Proof.Machine

/-! ### The samples of a batch -/

/-- The weights of a batch that starts in `s` (41_batch_sequencer.md R122). -/
def batchWeights (s : State) : Weight × Weight := numWeights s.cfg.num s.o0 s.cfg.n

/-- The events of the first `k` samples of a batch that starts in `s`. -/
def samplesEvents (k : Nat) (s : State) : List Event :=
  (List.range k).flatMap fun n =>
    sampleEvents (batchWeights s).1 (batchWeights s).2 n { s with wr := s.wr + n }

/-- The state after the first `k` samples of a batch that starts in `s`. -/
def afterSamples (k : Nat) (s : State) : State :=
  { s with hist := s.hist ++ samplesEvents k s, wr := s.wr + k }

theorem afterSamples_zero (s : State) : afterSamples 0 s = s := by
  simp [afterSamples, samplesEvents]

theorem afterSamples_hist_succ (k : Nat) (s : State) :
    (afterSamples (k + 1) s).hist =
      (afterSamples k s).hist ++ sampleEvents (batchWeights s).1 (batchWeights s).2 k (afterSamples k s) := by
  simp [afterSamples, samplesEvents, List.range_succ, sampleEvents, sampleValue, State.sample]

theorem mixSample_afterSamples {k : Nat} {s : State} (h : sampleInBounds k s) :
    mixSample (batchWeights s).1 (batchWeights s).2 k (afterSamples k s) = .ok (afterSamples (k + 1) s) := by
  have hin : sampleInBounds k (afterSamples k s) := h
  rw [mixSample_eq_ok hin, ← afterSamples_hist_succ]
  rfl

/-- The `for j` loop of R103 in one equation, where every pool read is in bounds. -/
theorem bigSamples_afterSamples {s : State} (k j : Nat) (h : ∀ n < j + k, sampleInBounds n s) :
    bigSamples (batchWeights s).1 (batchWeights s).2 k j (afterSamples j s) = .ok (afterSamples (j + k) s) := by
  induction k generalizing j with
  | zero => rfl
  | succ k ih =>
    have hin : sampleInBounds j s := h j (by omega)
    rw [bigSamples, mixSample_afterSamples hin]
    simpa [Nat.add_right_comm, Nat.add_assoc] using ih (j + 1) fun n hn => h n (by omega)

/-- What the samples of a batch put on the output channels (41_batch_sequencer.md R124). -/
theorem currentOut_afterSamples (k : Nat) (s : State) :
    currentOut (afterSamples k s).hist =
      currentOut s.hist ++ (List.range k).map fun n =>
        let y := sampleValue (batchWeights s).1 (batchWeights s).2 n s
        (y, y) := by
  induction k with
  | zero => simp [afterSamples_zero]
  | succ k ih =>
    rw [afterSamples_hist_succ, currentOut_sample, ih, List.range_succ, List.map_append, List.append_assoc]
    rfl

/-! ### A batch -/

/-- What a batch needs of the cursors (10_state.md R22, R23), in a well-formed configuration. -/
structure BatchReady (s : State) : Prop where
  config : 1 ≤ s.cfg.m ∧ s.cfg.m ≤ s.cfg.n
  index : s.i0 < s.cfg.m ∧ s.i1 < s.cfg.m
  offset : s.o0 < s.cfg.n ∧ s.o1 < s.cfg.n

theorem BatchReady.wf {s : State} (h : BatchReady s) : s.cfg.wf = true := by simpa [Config.wf] using h.config

theorem BatchReady.sampleInBounds {s : State} (h : BatchReady s) {n : Nat} (hn : n < batchLength s) :
    sampleInBounds n s := by
  obtain ⟨hi0, hi1⟩ := h.index
  obtain ⟨-, hfit0, hfit1⟩ := batchLength_le s
  exact ⟨⟨hi0, by omega⟩, hi1, by omega⟩

/-- The state after the samples of a batch and its advance, before the boundary tests. -/
def afterAdvance (s : State) : State := bigAdvance (batchLength s) (afterSamples (batchLength s) s)

theorem BatchReady.bigSamples_eq {s : State} (h : BatchReady s) :
    bigSamples (batchWeights s).1 (batchWeights s).2 (batchLength s) 0 s = .ok (afterSamples (batchLength s) s) := by
  have hsamples := bigSamples_afterSamples (batchLength s) 0 fun n hn => h.sampleInBounds (n := n) (by omega)
  rwa [afterSamples_zero, Nat.zero_add] at hsamples

theorem BatchReady.bigBatch_eq {s : State} (h : BatchReady s) :
    bigBatch s = (reseed .c0 (afterAdvance s)).bind (reseed .c1) := by
  have hsamples := h.bigSamples_eq
  unfold batchWeights at hsamples
  rw [bigBatch, hsamples, afterAdvance]
  dsimp only
  cases reseed .c0 _ <;> rfl

theorem reseed_eq_ok_iff (c : CursorId) (s u : State) : reseed c s = .ok u ↔ Tested c s u := by
  rw [reseed_eq]
  constructor
  · intro h
    split_ifs at h with hoff hdraw <;> cases h
    · exact .reseeded hoff hdraw
    · exact .kept (not_le.1 hoff)
  · rintro (⟨hoff, hdraw⟩ | hoff)
    · rw [if_pos hoff, if_pos hdraw]
    · rw [if_neg (not_le.2 hoff)]

/-- A batch that answers made both boundary tests. -/
theorem BatchReady.tested_of_bigBatch {s v : State} (h : BatchReady s) (hv : bigBatch s = .ok v) :
    ∃ u, Tested .c0 (afterAdvance s) u ∧ Tested .c1 u v := by
  rw [h.bigBatch_eq] at hv
  cases hu : reseed .c0 (afterAdvance s) with
  | error f =>
    rw [hu] at hv
    cases hv
  | ok u =>
    rw [hu] at hv
    exact ⟨u, (reseed_eq_ok_iff ..).1 hu, (reseed_eq_ok_iff ..).1 hv⟩

theorem Tested.idx_lt {c : CursorId} {s u : State} (h : Tested c s u) (hi : s.i0 < s.cfg.m ∧ s.i1 < s.cfg.m) :
    u.i0 < u.cfg.m ∧ u.i1 < u.cfg.m := by
  obtain ⟨hi0, hi1⟩ := hi
  cases h with
  | kept => exact ⟨hi0, hi1⟩
  | reseeded _ hdraw =>
    cases c with
    | c0 => exact ⟨hdraw, hi1⟩
    | c1 => exact ⟨hi0, hdraw⟩

/-- What a batch leaves behind: the next one can start, with both offsets below `M` (41_batch_sequencer.md R132). -/
structure AfterBatch (s v : State) : Prop where
  ready : BatchReady v
  cfg : v.cfg = s.cfg
  offset : v.o0 < s.cfg.m ∧ v.o1 < s.cfg.m
  rem : v.rem = s.rem - batchLength s
  delivered : (currentOut v.hist).length = (currentOut s.hist).length + batchLength s
  draws : v.draws <:+ s.draws

theorem BatchReady.afterBatch {s v : State} (h : BatchReady s) (hv : bigBatch s = .ok v) : AfterBatch s v := by
  obtain ⟨u, hu, huv⟩ := h.tested_of_bigBatch hv
  obtain ⟨hm, hn⟩ := h.config
  obtain ⟨hcfg, hrem, -⟩ := hu.frame
  obtain ⟨hcfg', hrem', -⟩ := huv.frame
  obtain ⟨-, ho0⟩ := huv.cursor0
  obtain ⟨-, hout, -, -⟩ := hu.readings
  obtain ⟨-, hout', -, -⟩ := huv.readings
  have cfg : v.cfg = s.cfg := hcfg'.trans hcfg
  have h0 : v.o0 < s.cfg.m := ho0 ▸ hu.off_lt hm
  have h1 : v.o1 < s.cfg.m := by
    have := huv.off_lt (by rw [hcfg]; exact hm)
    rwa [hcfg] at this
  have ready : BatchReady v :=
    ⟨cfg ▸ h.config, huv.idx_lt (hu.idx_lt h.index), cfg ▸ ⟨h0.trans_le hn, h1.trans_le hn⟩⟩
  refine ⟨ready, cfg, ⟨h0, h1⟩, hrem'.trans hrem, ?_,
    huv.draws_suffix.trans hu.draws_suffix⟩
  rw [hout', hout, afterAdvance, State.bigAdvance_hist, currentOut_afterSamples]
  simp

theorem AfterBatch.drawsInRange {s v : State} (h : AfterBatch s v) (hs : DrawsInRange s) : DrawsInRange v := by
  intro d hd
  rw [h.cfg]
  exact hs d (h.draws.subset hd)

theorem DrawsInRange.reseed {s : State} (h : DrawsInRange s) (hm : 1 ≤ s.cfg.m) (c : CursorId) :
    ∃ u, reseed c s = .ok u ∧ DrawsInRange u ∧ 1 ≤ u.cfg.m := by
  have ⟨u, hu⟩ : ∃ u, Tested c s u := by
    rcases Nat.lt_or_ge (s.off c) s.cfg.m with hoff | hoff
    · exact ⟨s, .kept hoff⟩
    · exact ⟨_, .reseeded hoff (h.nextDraw_lt hm)⟩
  obtain ⟨hcfg, -⟩ := hu.frame
  exact ⟨u, (reseed_eq_ok_iff ..).2 hu, fun d hd => hcfg ▸ h d (hu.draws_suffix.subset hd), hcfg ▸ hm⟩

/-- With draws in range a batch does not fault. -/
theorem BatchReady.bigBatch_answers {s : State} (h : BatchReady s) (hd : DrawsInRange s) : ∃ v, bigBatch s = .ok v := by
  have hd' : DrawsInRange (afterAdvance s) := hd
  obtain ⟨u, hu, hdu, hmu⟩ := hd'.reseed h.config.1 .c0
  obtain ⟨v, hv, -⟩ := hdu.reseed hmu .c1
  exact ⟨v, by rw [h.bigBatch_eq, hu]; exact hv⟩

/-! ### The loop -/

theorem bigLoop_of_rem_zero {s : State} (b : Nat) (h : s.rem = 0) : bigLoop b s = some (.ok (fillDone s)) := by
  cases b <;> rw [bigLoop, if_pos h]

theorem bigLoop_of_bigBatch {s v : State} (b : Nat) (h : 1 ≤ s.rem) (hv : bigBatch s = .ok v) :
    bigLoop (b + 1) s = bigLoop b v := by
  rw [bigLoop, if_neg (by omega), hv]

theorem bigLoop_completes {s : State} (b : Nat) (ready : BatchReady s) (hd : DrawsInRange s) (hpos : 1 ≤ s.rem)
    (hb : s.rem ≤ b) :
    ∃ u, bigLoop b s = some (.ok u) ∧ u.rem = 0 ∧
      (currentOut u.hist).length = (currentOut s.hist).length + s.rem ∧ u.o0 < s.cfg.m ∧ u.o1 < s.cfg.m := by
  induction b generalizing s with
  | zero => omega
  | succ b ih =>
    obtain ⟨v, hv⟩ := ready.bigBatch_answers hd
    have after := ready.afterBatch hv
    obtain ⟨h0, h1⟩ := ready.offset
    have hk := batchLength_pos hpos h0 h1
    obtain ⟨hle, -⟩ := batchLength_le s
    have hrem := after.rem
    have hout := after.delivered
    rw [bigLoop_of_bigBatch b hpos hv]
    rcases Nat.eq_zero_or_pos v.rem with hzero | hmore
    · refine ⟨fillDone v, bigLoop_of_rem_zero b hzero, hzero, ?_, after.offset⟩
      simp only [State.fillDone_hist, currentOut_append, outStep]
      omega
    · obtain ⟨u, hu, hurem, huout, huoff⟩ := ih after.ready (after.drawsInRange hd) hmore (by omega)
      exact ⟨u, hu, hurem, by omega, after.cfg ▸ huoff⟩

/-! ### The whole command -/

theorem currentOut_bigStart (count : Nat) (s : State) : currentOut (bigStart count s).hist = [] := by
  simp [outStep]

theorem Inv.batchReady_bigStart {s : State} (inv : Inv s) (h0 : s.o0 < s.cfg.n) (h1 : s.o1 < s.cfg.n) (count : Nat) :
    BatchReady (bigStart count s) :=
  ⟨inv.config, inv.index, h0, h1⟩

theorem bigFill_completes {s : State} (inv : Inv s) (hd : DrawsInRange s) (hp : s.ph = phIdle) (count : Nat) :
    ∃ u, bigFill count count s = some (.ok u) ∧ u.rem = 0 ∧ (currentOut u.hist).length = count ∧
      (1 ≤ count → u.o0 < s.cfg.m ∧ u.o1 < s.cfg.m) := by
  have hd' : DrawsInRange (bigStart count s) := hd
  obtain ⟨-, h0, h1⟩ := inv.idle hp
  rcases Nat.eq_zero_or_pos count with rfl | hpos
  · refine ⟨_, bigLoop_of_rem_zero 0 rfl, rfl, ?_, fun h => absurd h (by decide)⟩
    rw [State.fillDone_hist, currentOut_append, currentOut_bigStart]
    rfl
  · obtain ⟨u, hu, hrem, hout, hoff⟩ := bigLoop_completes count (inv.batchReady_bigStart h0 h1 count) hd' hpos le_rfl
    rw [currentOut_bigStart] at hout
    exact ⟨u, hu, hrem, by simpa using hout, fun _ => hoff⟩

/-! ### The steady state (40_fill_command.md R112) -/

theorem batchLength_steady {s : State} {count : Nat} (h0 : s.o0 = 0) (h1 : s.o1 = 0) (hle : count ≤ s.cfg.n) :
    batchLength (bigStart count s) = count := by
  simp [batchLength, h0, h1, hle]

theorem Tested.eq_afterReseed {c : CursorId} {s u : State} (h : Tested c s u) (hoff : s.cfg.m ≤ s.off c) :
    u = afterReseed c s := by
  cases h with
  | reseeded => rfl
  | kept hlt => exact absurd hoff (not_le.2 hlt)

theorem currentOut_afterReseed (c : CursorId) (s : State) : currentOut (afterReseed c s).hist = currentOut s.hist := by
  simp [afterReseed, afterDraw, outStep]

/-- Where a batch takes both cursors past `M`, it reseeds both, cursor 0 first (42_reseed.md R144). -/
theorem BatchReady.bigBatch_reseeds_both {s : State} (h : BatchReady s) (hd : DrawsInRange s)
    (h0 : s.cfg.m ≤ s.o0 + batchLength s) (h1 : s.cfg.m ≤ s.o1 + batchLength s) :
    bigBatch s = .ok (afterReseed .c1 (afterReseed .c0 (afterAdvance s))) := by
  obtain ⟨v, hv⟩ := h.bigBatch_answers hd
  obtain ⟨u, hu, huv⟩ := h.tested_of_bigBatch hv
  obtain rfl := hu.eq_afterReseed h0
  obtain rfl := huv.eq_afterReseed h1
  exact hv

theorem bigFill_steady {s : State} {count : Nat} (inv : Inv s) (hd : DrawsInRange s) (h0 : s.o0 = 0) (h1 : s.o1 = 0)
    (hm : s.cfg.m ≤ count) (hn : count ≤ s.cfg.n) :
    bigFill 1 count s =
      some (.ok (fillDone (afterReseed .c1 (afterReseed .c0 (afterAdvance (bigStart count s)))))) := by
  obtain ⟨hm1, hmn⟩ := inv.config
  have hk := batchLength_steady h0 h1 hn
  have ready := inv.batchReady_bigStart (by omega) (by omega) count
  have hbatch := ready.bigBatch_reseeds_both hd (by simpa [h0, hk] using hm) (by simpa [h1, hk] using hm)
  rw [bigFill, bigLoop_of_bigBatch 0 (hm1.trans hm) hbatch]
  refine bigLoop_of_rem_zero 0 ?_
  simp [afterReseed, afterDraw, afterAdvance, hk, afterSamples]

/-- Settles O48: the one batch takes both cursors to `count`, so both reseed; its samples are those at angle 0. -/
theorem steadyStateIsOneBatchAtAngleZero : Obligations.SteadyStateIsOneBatchAtAngleZero := by
  intro s count inv hd h0 h1 hm hn
  have hk := batchLength_steady h0 h1 hn
  refine ⟨_, bigFill_steady inv hd h0 h1 hm hn, rfl, rfl, ?_, rfl, fun d0 d1 ds hdraws => ?_⟩
  · rw [State.fillDone_hist, currentOut_append, outStep, currentOut_afterReseed, currentOut_afterReseed, afterAdvance,
      State.bigAdvance_hist, currentOut_afterSamples, currentOut_bigStart, hk]
    simp [sampleValue, batchWeights, State.sample, h0, h1]
  · simp [afterReseed, afterDraw, afterAdvance, afterSamples, State.nextDraw, hdraws]

end Sys2Proof.Machine
end

section
/-! PROOFS. No run hangs (spec 00_scope.md R19): a number that every step of a busy block lowers. -/

namespace Sys2Proof.Machine

/-! ### The steps left -/

/-- A bound on the steps left within the command: each batch to come is worth six, since it delivers at least one of
`REM` samples; the batch that runs owes the samples `KB - J` and its other micro-operations; and the host its delays. -/
def stepsLeft (s : State) : Nat :=
  s.waits.sum +
    if s.ph = phMix then 6 * (s.rem - s.kb) + (s.kb - s.j) + 4
    else if s.ph = phAdv then 6 * (s.rem - s.kb) + 3
    else if s.ph = phRs0 then 6 * s.rem + 2
    else if s.ph = phRs1 then 6 * s.rem + 1
    else 6 * s.rem

theorem stepsLeft_bset {s : State} (hp : s.ph = phBset) : stepsLeft s = s.waits.sum + 6 * s.rem := by
  rw [stepsLeft, hp]; rfl

theorem stepsLeft_mix {s : State} (hp : s.ph = phMix) :
    stepsLeft s = s.waits.sum + (6 * (s.rem - s.kb) + (s.kb - s.j) + 4) := by
  rw [stepsLeft, hp]; rfl

theorem stepsLeft_adv {s : State} (hp : s.ph = phAdv) : stepsLeft s = s.waits.sum + (6 * (s.rem - s.kb) + 3) := by
  rw [stepsLeft, hp]; rfl

theorem stepsLeft_rs0 {s : State} (hp : s.ph = phRs0) : stepsLeft s = s.waits.sum + (6 * s.rem + 2) := by
  rw [stepsLeft, hp]; rfl

theorem stepsLeft_rs1 {s : State} (hp : s.ph = phRs1) : stepsLeft s = s.waits.sum + (6 * s.rem + 1) := by
  rw [stepsLeft, hp]; rfl

theorem Tested.waits {c : CursorId} {s u : State} (h : Tested c s u) : u.waits = s.waits := by
  cases h with
  | kept => rfl
  | reseeded => simp [afterReseed, afterDraw]

theorem sum_tail_le (ws : List Nat) : ws.tail.sum ≤ ws.sum := by
  cases ws <;> simp

theorem Move.stepsLeft_lt {s t : State} (h : Move s t) (inv : Inv s) (hs : s.ph ≠ phIdle) (ht : t.ph ≠ phIdle) :
    stepsLeft t < stepsLeft s := by
  cases h with
  | noCommand hp | fillZero hp | fill _ hp => exact absurd hp hs
  | bset hp =>
    obtain ⟨hrem, h0, h1, -⟩ := inv.bset hp
    have hpos := batchLength_pos hrem h0 h1
    obtain ⟨hle, -⟩ := batchLength_le s
    rw [stepsLeft_mix rfl, stepsLeft_bset hp]
    dsimp only
    omega
  | pairNotTaken hp hpair =>
    obtain ⟨-, -, w, ws, hws⟩ := s.pairNotTaken_iff.1 hpair
    rw [stepsLeft_mix (s := hostWaits _ s) hp, stepsLeft_mix hp]
    simp [hws]
  | sample hp hj =>
    have := sum_tail_le s.waits
    rw [stepsLeft_mix (s := afterMixOne s) hp, stepsLeft_mix hp]
    dsimp only [afterMixOne]
    omega
  | leave hp hj =>
    rw [stepsLeft_adv rfl, stepsLeft_mix hp]
    dsimp only
    omega
  | adv hp =>
    rw [stepsLeft_rs0 rfl, stepsLeft_adv hp]
    dsimp only
    omega
  | @rs0 hp u hu =>
    rw [stepsLeft_rs1 rfl, stepsLeft_rs0 hp]
    dsimp only
    rw [hu.waits, hu.frame.2.1]
    omega
  | @rs1 hp u hu =>
    obtain ⟨-, hrem, -⟩ := hu.frame
    rw [loopDecision] at ht ⊢
    split_ifs at ht ⊢
    · exact absurd rfl ht
    · rw [stepsLeft_bset rfl, stepsLeft_rs1 hp]
      dsimp only
      rw [hu.waits, hrem]
      omega

/-! ### No hang -/

theorem Hangs.step {s : State} (h : Hangs s) : s.ph ≠ phIdle ∧ ∃ t, step s = .next t ∧ t.ph ≠ phIdle ∧ Hangs t := by
  obtain ⟨s', hs', hs⟩ := h 0
  cases hs'
  obtain ⟨t, ht, hph⟩ := h 1
  rw [core_run_one] at ht
  exact ⟨hs, t, ht, hph, fun k => core_run_succ k ht ▸ h (k + 1)⟩

theorem not_hangs {s : State} (inv : Inv s) : ¬ Hangs s := by
  induction hn : stepsLeft s using Nat.strong_induction_on generalizing s with
  | _ n ih =>
    intro h
    obtain ⟨hs, t, hstep, ht, hangs⟩ := h.step
    rcases step_next_cases hstep with ⟨-, rfl⟩ | ⟨-, hm⟩
    · exact ht rfl
    · exact ih _ (hn ▸ hm.stepsLeft_lt inv hs ht) (hm.inv inv) rfl hangs

/-- Settles O46: batch by batch, `REM` samples need at most `REM` batches; a busy run lowers `stepsLeft`. -/
theorem fillCompletesWithinItsCountOfBatches : Obligations.FillCompletesWithinItsCountOfBatches :=
  ⟨fun _ count inv hd hp => bigFill_completes inv hd hp count, fun _ inv _ => not_hangs inv⟩

end Sys2Proof.Machine
end

section
/-! PROOFS. The run of micro-operations has the effect of the big-step rule (spec 40_fill_command.md R108), batch by
batch, whatever the host's delays. -/

namespace Sys2Proof.Machine

/-! ### Runs -/

theorem core_run_succ_fault {s : State} {f : Fault} (k : Nat) (h : step s = .fault f) :
    Sys2Proof.core.run (k + 1) s = .fault f := by
  have hcore : Sys2Proof.core.step s = .fault f := h
  simp only [Host.Core.run, hcore]

theorem core_run_succ_refused {s : State} {r : Refusal} (k : Nat) (h : step s = .refused r) :
    Sys2Proof.core.run (k + 1) s = .refused r := by
  have hcore : Sys2Proof.core.step s = .refused r := h
  simp only [Host.Core.run, hcore]

theorem core_run_add {s t : State} {a : Nat} (b : Nat) (h : Sys2Proof.core.run a s = .next t) :
    Sys2Proof.core.run (a + b) s = Sys2Proof.core.run b t := by
  induction a generalizing s with
  | zero =>
    cases h
    rw [Nat.zero_add]
  | succ a ih =>
    cases hs : step s with
    | next s' =>
      rw [core_run_succ a hs] at h
      rw [Nat.add_right_comm, core_run_succ (a + b) hs, ih h]
    | fault f =>
      rw [core_run_succ_fault a hs] at h
      cases h
    | refused r =>
      rw [core_run_succ_refused a hs] at h
      cases h

/-! ### What the big-step rule does not name -/

/-- The registers and inputs that the big-step rule does not name: the phase, the batch registers, and the host. -/
structure Control where
  ph : PhaseCode
  kb : Nat
  j : Nat
  ws : Weight
  wc : Weight
  offers : List Offer
  waits : List Nat

/-- The small-step state, with reset low, that shows what the big-step state `u` does, with the control `c`. -/
def State.withControl (u : State) (c : Control) : State :=
  { u with
    ph := c.ph, kb := c.kb, j := c.j, ws := c.ws, wc := c.wc, offers := c.offers, waits := c.waits
    rst := false }

theorem sameEffect_withControl (u : State) (c : Control) : SameEffect (u.withControl c) u :=
  ⟨rfl, rfl, rfl, rfl, rfl, rfl, rfl, rfl, rfl⟩

/-- The boundary test neither reads nor writes the control. -/
theorem reseed_withControl (k : CursorId) (u : State) (c : Control) :
    reseed k (u.withControl c) = (reseed k u).map (·.withControl c) := by
  have hcfg : (u.withControl c).cfg = u.cfg := rfl
  have hdraw : (u.withControl c).nextDraw = u.nextDraw := rfl
  have hoff : (u.withControl c).off k = u.off k := by cases k <;> rfl
  have hreseed : afterReseed k (u.withControl c) = (afterReseed k u).withControl c := by cases k <;> rfl
  rw [reseed_eq, reseed_eq, hcfg, hdraw, hoff, hreseed]
  split_ifs <;> rfl

theorem loopDecision_withControl (u : State) (c : Control) :
    loopDecision (u.withControl c) =
      if u.rem = 0 then (fillDone u).withControl { c with ph := phIdle } else u.withControl { c with ph := phBset } :=
  rfl

/-! ### The micro-operations around the samples -/

section
variable {u : State} {c : Control} (hw : u.cfg.wf = true)
include hw

theorem step_withControl {ph : PhaseCode} (i : Instr) (hi : encode i = .uop ph) (hp : c.ph = ph) :
    step (u.withControl c) = exec i (u.withControl c) :=
  step_uop (s := u.withControl c) i hw rfl hi hp

theorem step_leave_withControl (hp : c.ph = phMix) (hj : c.j = c.kb) :
    step (u.withControl c) = .next (u.withControl { c with ph := phAdv }) := by
  refine (step_withControl hw .mix rfl hp).trans ?_
  rcases execMix_cases (s := u.withControl c) hp with ⟨-, he⟩ | ⟨hlt, -⟩ | ⟨hlt, -⟩ | ⟨hlt, -⟩
  · exact he
  all_goals exact absurd hj (Nat.ne_of_lt hlt)

theorem step_adv_withControl (hp : c.ph = phAdv) :
    step (u.withControl c) = .next ((bigAdvance c.kb u).withControl { c with ph := phRs0 }) :=
  (step_withControl hw .adv rfl hp).trans (execAdv_eq (s := u.withControl c) hp)

theorem step_rs0_withControl (hp : c.ph = phRs0) :
    step (u.withControl c) = finish ((reseed .c0 u).map (·.withControl { c with ph := phRs1 })) := by
  refine (step_withControl hw .rs0 rfl hp).trans ((if_pos hp).trans ?_)
  rw [reseed_withControl]
  cases reseed .c0 u <;> rfl

theorem step_rs1_withControl (hp : c.ph = phRs1) :
    step (u.withControl c) = finish ((reseed .c1 u).map fun v => loopDecision (v.withControl c)) := by
  refine (step_withControl hw .rs1 rfl hp).trans ((if_pos hp).trans ?_)
  rw [reseed_withControl]
  cases reseed .c1 u <;> rfl

/-- Both boundary tests and the loop decision; a fault of the first test ends the run there. -/
theorem core_run_tests (hp : c.ph = phRs0) :
    Sys2Proof.core.run 2 (u.withControl c) =
      finish (((reseed .c0 u).bind (reseed .c1)).map fun v => loopDecision (v.withControl { c with ph := phRs1 })) := by
  have hstep := step_rs0_withControl hw hp
  cases hu : reseed .c0 u with
  | error f =>
    rw [hu] at hstep
    exact core_run_succ_fault 1 hstep
  | ok v =>
    rw [hu] at hstep
    have hwv : v.cfg.wf = true := by rw [((reseed_eq_ok_iff ..).1 hu).frame.1, hw]
    rw [core_run_succ 1 hstep, core_run_one, step_rs1_withControl hwv rfl]
    rfl

end

/-! ### The samples -/

/-- One sample of a batch, after as many held steps as the host delays the pair (20_memory.md R64). -/
theorem core_run_sample {s : State} {w : Nat} (hwf : s.cfg.wf = true) (hr : s.rst = false) (hp : s.ph = phMix)
    (hj : s.j < s.kb) (hin : sampleInBounds s.j s) (hwaits : s.waits.head?.getD 0 = w) :
    Sys2Proof.core.run (w + 1) s = .next (afterMixOne s) := by
  have hstep : step s = execMix s := step_uop .mix hwf hr rfl hp
  induction w generalizing s with
  | zero =>
    have htaken : ¬ s.pairNotTaken = true := by
      intro hpair
      obtain ⟨-, -, w, rest, hrest⟩ := s.pairNotTaken_iff.1 hpair
      simp [hrest] at hwaits
    obtain ⟨h0, h1⟩ := hin
    rw [execMix_eq hp, if_neg htaken, if_pos hj, if_pos h0, if_pos h1] at hstep
    exact (core_run_one s).trans hstep
  | succ w ih =>
    obtain ⟨rest, hrest⟩ : ∃ rest, s.waits = (w + 1) :: rest := by
      cases hs : s.waits with
      | nil => simp [hs] at hwaits
      | cons v rest => exact ⟨rest, by simpa [hs] using hwaits⟩
    have hpair : s.pairNotTaken = true := s.pairNotTaken_iff.2 ⟨hp, hj, w, rest, hrest⟩
    rw [execMix_held hpair, held] at hstep
    rw [core_run_succ (w + 1) hstep, ih (s := hostWaits .pairNotTaken s) hwf hr hp hj hin (by simp [hrest])
      (step_uop .mix hwf hr rfl hp)]
    simp [afterMixOne, hostWaits, hrest, sampleEvents, sampleValue, State.sample]

/-- The control after `BSET` and the first `n` samples of a batch that starts in `u` with the control `c`. -/
def Control.inBatch (c : Control) (u : State) (n : Nat) : Control :=
  { c with
    ph := phMix, kb := batchLength u, j := n, ws := (batchWeights u).1, wc := (batchWeights u).2
    waits := c.waits.drop n }

theorem step_bset_withControl {u : State} {c : Control} (hw : u.cfg.wf = true) (hp : c.ph = phBset) :
    step (u.withControl c) = .next (u.withControl (c.inBatch u 0)) :=
  (step_withControl hw .bset rfl hp).trans (execBset_eq (s := u.withControl c) hp)

theorem afterMixOne_withControl (u : State) (c : Control) (n : Nat) :
    afterMixOne ((afterSamples n u).withControl (c.inBatch u n)) =
      (afterSamples (n + 1) u).withControl (c.inBatch u (n + 1)) := by
  have hhist := afterSamples_hist_succ n u
  have hwaits : (c.waits.drop n).tail = c.waits.drop (n + 1) := List.tail_drop
  simp only [State.withControl, hhist]
  simp only [Control.inBatch, ← hwaits]
  rfl

theorem sum_take_succ (ws : List Nat) (n : Nat) : (ws.take (n + 1)).sum = (ws.take n).sum + ws[n]?.getD 0 := by
  rw [List.take_add_one, List.sum_append]
  cases ws[n]? <;> simp

/-- The first `n` samples of a batch, each after its pair's delay. -/
theorem core_run_samples {u : State} (c : Control) (ready : BatchReady u) (n : Nat) (hn : n ≤ batchLength u) :
    Sys2Proof.core.run (n + (c.waits.take n).sum) (u.withControl (c.inBatch u 0)) =
      .next ((afterSamples n u).withControl (c.inBatch u n)) := by
  induction n with
  | zero => rw [afterSamples_zero]; rfl
  | succ n ih =>
    have hin : sampleInBounds n u := ready.sampleInBounds hn
    have hwait : (c.inBatch u n).waits.head?.getD 0 = c.waits[n]?.getD 0 := by
      rw [Control.inBatch, List.head?_drop]
    have hsample := core_run_sample (s := (afterSamples n u).withControl (c.inBatch u n))
      ready.wf rfl rfl hn hin hwait
    have hsteps : n + 1 + (c.waits.take (n + 1)).sum = n + (c.waits.take n).sum + (c.waits[n]?.getD 0 + 1) := by
      rw [sum_take_succ]
      omega
    rw [hsteps, core_run_add _ (ih (by omega)), hsample, afterMixOne_withControl]

/-! ### A batch -/

/-- A batch of `k` samples takes `k + 5` steps and the held ones, and does what the big-step batch does. -/
theorem core_run_batch {u : State} {c : Control} (ready : BatchReady u) (hp : c.ph = phBset) :
    Sys2Proof.core.run (batchLength u + (c.waits.take (batchLength u)).sum + 5) (u.withControl c) =
      finish ((bigBatch u).map fun v =>
        loopDecision (v.withControl { c.inBatch u (batchLength u) with ph := phRs1 })) := by
  have hw := ready.wf
  have hmix := core_run_samples c ready (batchLength u) le_rfl
  have hleave := step_leave_withControl
    (u := afterSamples (batchLength u) u) (c := c.inBatch u (batchLength u)) hw rfl rfl
  have hadv := step_adv_withControl
    (u := afterSamples (batchLength u) u) (c := { c.inBatch u (batchLength u) with ph := phAdv }) hw rfl
  have htests := core_run_tests (u := afterAdvance u) (c := { c.inBatch u (batchLength u) with ph := phRs0 }) hw rfl
  rw [ready.bigBatch_eq, ← htests]
  calc Sys2Proof.core.run (batchLength u + (c.waits.take (batchLength u)).sum + 4 + 1) (u.withControl c)
    _ = Sys2Proof.core.run (batchLength u + (c.waits.take (batchLength u)).sum + 4) _ :=
      core_run_succ _ (step_bset_withControl hw hp)
    _ = Sys2Proof.core.run (3 + 1) _ := core_run_add 4 hmix
    _ = Sys2Proof.core.run (2 + 1) _ := core_run_succ 3 hleave
    _ = Sys2Proof.core.run 2 _ := core_run_succ 2 hadv

/-! ### The loop -/

theorem core_run_bigLoop {u : State} {c : Control} {r : Except Fault State} (b : Nat) (ready : BatchReady u)
    (hpos : 1 ≤ u.rem) (hp : c.ph = phBset) (h : bigLoop b u = some r) :
    ∃ k c', c'.ph = phIdle ∧ Sys2Proof.core.run k (u.withControl c) = finish (r.map (·.withControl c')) := by
  have hmore : u.rem ≠ 0 := Nat.one_le_iff_ne_zero.1 hpos
  induction b generalizing u c with
  | zero =>
    rw [bigLoop, if_neg hmore] at h
    cases h
  | succ b ih =>
    have hbatch := core_run_batch ready hp
    rw [bigLoop, if_neg hmore] at h
    cases hv : bigBatch u with
    | error f =>
      rw [hv] at h hbatch
      cases h
      exact ⟨_, { c with ph := phIdle }, rfl, hbatch⟩
    | ok v =>
      rw [hv] at h hbatch
      have after := ready.afterBatch hv
      replace hbatch : Sys2Proof.core.run _ (u.withControl c) = .next (loopDecision _) := hbatch
      rw [loopDecision_withControl] at hbatch
      by_cases hzero : v.rem = 0
      · rw [if_pos hzero] at hbatch
        dsimp only at h
        rw [bigLoop_of_rem_zero b hzero] at h
        cases h
        exact ⟨_, _, rfl, hbatch⟩
      · rw [if_neg hzero] at hbatch
        obtain ⟨k, c', hc', hk⟩ :=
          ih (c := { c.inBatch u (batchLength u) with ph := phBset })
            after.ready (Nat.one_le_iff_ne_zero.2 hzero) rfl h hzero
        exact ⟨_, c', hc', (core_run_add k hbatch).trans hk⟩

/-! ### The whole command -/

/-- The control after a command of at least one sample is taken. -/
def State.acceptedControl (s : State) : Control where
  ph := phBset
  kb := s.kb
  j := s.j
  ws := s.ws
  wc := s.wc
  offers := withoutPortWord s.offers
  waits := s.waits

theorem step_fill_zero {s : State} {cw : CmdWord} (hw : s.cfg.wf = true) (hr : s.rst = false) (hp : s.ph = phIdle)
    (hport : s.port = some cw) (hdec : decode (.cmd cw) = .ok (.fill 0)) :
    step s = .next ((fillDone (bigStart 0 s)).withControl { s.acceptedControl with ph := phIdle }) := by
  rw [(stepRunsTheDecodedOperation s hw hr).1 cw _ hp hport hdec, exec, execFill_eq hp, if_pos rfl]
  simp [State.withControl, State.acceptedControl, bigStart, fillDone, State.log, hr, hp]

theorem step_fill {s : State} {cw : CmdWord} {count : Nat} (hw : s.cfg.wf = true) (hr : s.rst = false)
    (hp : s.ph = phIdle) (hport : s.port = some cw) (hdec : decode (.cmd cw) = .ok (.fill count)) (hpos : 1 ≤ count) :
    step s = .next ((bigStart count s).withControl s.acceptedControl) := by
  rw [(stepRunsTheDecodedOperation s hw hr).1 cw _ hp hport hdec, exec, execFill_eq hp, if_neg (by omega)]
  simp [State.withControl, State.acceptedControl, bigStart, State.log, hr]

/-- Every answer of the big-step rule is one of the run of its `FILL`. -/
theorem core_run_bigFill {s : State} {cw : CmdWord} {count : Nat} {r : Except Fault State} (inv : Inv s)
    (hp : s.ph = phIdle) (hr : s.rst = false) (hport : s.port = some cw) (hdec : decode (.cmd cw) = .ok (.fill count))
    (h : bigFill count count s = some r) :
    ∃ k c, c.ph = phIdle ∧ Sys2Proof.core.run k s = finish (r.map (·.withControl c)) := by
  obtain ⟨-, h0, h1⟩ := inv.idle hp
  rcases Nat.eq_zero_or_pos count with rfl | hpos
  · rw [bigFill, bigLoop_of_rem_zero 0 rfl] at h
    cases h
    exact ⟨1, _, rfl, (core_run_one s).trans (step_fill_zero inv.wf hr hp hport hdec)⟩
  · obtain ⟨k, c, hc, hk⟩ :=
      core_run_bigLoop (u := bigStart count s) (c := s.acceptedControl) count (inv.batchReady_bigStart h0 h1 count) hpos
        rfl h
    exact ⟨k + 1, c, hc, (core_run_succ k (step_fill inv.wf hr hp hport hdec hpos)).trans hk⟩

/-- Settles O45: a run and the big-step rule differ in the control alone. -/
theorem smallStepRunAgreesWithBigStep : Obligations.SmallStepRunAgreesWithBigStep := by
  intro s cw count inv hp hr hport hdec
  refine ⟨fun u h => ?_, fun f h => ?_⟩
  · obtain ⟨k, c, hc, hk⟩ := core_run_bigFill inv hp hr hport hdec h
    exact ⟨k, u.withControl c, hk, hc, sameEffect_withControl u c⟩
  · obtain ⟨k, c, -, hk⟩ := core_run_bigFill inv hp hr hport hdec h
    exact ⟨k, hk⟩

end Sys2Proof.Machine
end

section
/-! PROOFS. The batch micro-operations (spec 41_batch_sequencer.md R118 to R131): what `BSET`, `MIX` and `ADV` do where `PH`
selects them, and what every step leaves of the weights. -/

namespace Sys2Proof.Machine

/-! ### The batch length (41_batch_sequencer.md R121) -/

/-- Settles O16: a minimum bounds exactly what all its parts bound. -/
theorem batchLengthIsTheLargest : Obligations.BatchLengthIsTheLargest := by
  intro s h0 h1 k
  rw [batchLength, le_min_iff, le_min_iff, Nat.le_sub_iff_add_le' h0, Nat.le_sub_iff_add_le' h1]

/-! ### One operation each -/

/-- Settles O17, by the equation of `BSET`. -/
theorem bsetSetsUpTheBatch : Obligations.BsetSetsUpTheBatch := fun _ hp => execBset_eq hp

/-- Settles O18: of the four things `MIX` can do, the hypotheses leave one in each half. -/
theorem mixDeliversOneSampleOrLeavesTheBatch : Obligations.MixDeliversOneSampleOrLeavesTheBatch := by
  intro s hp
  rcases execMix_cases hp with ⟨hj, he⟩ | ⟨hj, w, ws, hws, -⟩ | ⟨hj, -, -, he⟩ | ⟨hj, hout, -⟩
  · exact ⟨fun h => absurd h hj.not_gt, fun _ => he⟩
  · refine ⟨fun _ htaken => ?_, fun h => absurd h hj.not_ge⟩
    simp [hws] at htaken
  · exact ⟨fun _ _ _ _ _ _ => ⟨s.waits.tail, he⟩, fun h => absurd h hj.not_ge⟩
  · exact ⟨fun _ _ hi0 ho0 hi1 ho1 => absurd ⟨⟨hi0, ho0⟩, hi1, ho1⟩ hout, fun h => absurd h hj.not_ge⟩

/-- Settles O20, by the equation of `ADV`. -/
theorem advAdvancesBothCursors : Obligations.AdvAdvancesBothCursors := fun _ hp => execAdv_eq hp

/-- Settles O41: `KB` is the least of what is left of each block and of the count, and that one is used up. -/
theorem advReachesABlockEndOrTheCount : Obligations.AdvReachesABlockEndOrTheCount := by
  intro s t inv hp h
  rw [exec, execAdv_eq hp] at h
  cases h
  obtain ⟨hkb, -⟩ := inv.batch (.inr hp)
  have hoff := inv.offset
  simp only [hkb, batchLength]
  omega

/-! ### The weights within a batch (41_batch_sequencer.md R118) -/

theorem Tested.weights {c : CursorId} {s u : State} (h : Tested c s u) : u.ws = s.ws ∧ u.wc = s.wc := by
  cases h with
  | reseeded => simp [afterReseed, afterDraw]
  | kept => exact ⟨rfl, rfl⟩

theorem loopDecision_weights (u : State) : (loopDecision u).ws = u.ws ∧ (loopDecision u).wc = u.wc := by
  rcases loopDecision_cases u with h | h <;> rw [h] <;> exact ⟨rfl, rfl⟩

theorem Move.weights {s t : State} (h : Move s t) (hp : s.ph ≠ phBset) : t.ws = s.ws ∧ t.wc = s.wc := by
  cases h with
  | bset hb => exact absurd hb hp
  | rs0 _ hu => exact hu.weights
  | rs1 _ hu =>
    obtain ⟨hws, hwc⟩ := hu.weights
    obtain ⟨hws', hwc'⟩ := loopDecision_weights _
    exact ⟨hws'.trans hws, hwc'.trans hwc⟩
  | noCommand | fillZero | fill | pairNotTaken | sample | leave | adv => exact ⟨rfl, rfl⟩

/-- Settles O28: of the moves of a step only `BSET` writes the weights. -/
theorem weightsAreFixedWithinABatch : Obligations.WeightsAreFixedWithinABatch := by
  intro s t h hr hp
  rcases step_next_cases h with ⟨hr', -⟩ | ⟨-, hm⟩
  · rw [hr] at hr'
    cases hr'
  · exact hm.weights hp

end Sys2Proof.Machine
end

section
/-! PROOFS. The reference numerics at special values (spec 41_batch_sequencer.md R126). -/

namespace Sys2Proof.Machine

/-! ### A NaN result -/

theorem isNaN32_nanPattern (choice : Bool × Fin 8388607) : isNaN32 (nanPattern choice) = true := by
  obtain ⟨neg, k⟩ := choice
  have hmag : binary32.infBits + (k.val + 1) < 2 ^ (binary32.expBits + binary32.fracBits) := by
    have := k.isLt
    simp only [binary32, FloatFormat.infBits]
    omega
  have hbits : binary32.signBits neg + binary32.infBits + (k.val + 1) < 2 ^ 32 := by
    have : binary32.signBits neg ≤ 2 ^ 31 := by cases neg <;> decide
    simp only [binary32] at hmag
    simp only [binary32] at this ⊢
    omega
  rw [isNaN32, decide_eq_true_iff, nanPattern, BitVec.toNat_ofNat, Nat.mod_eq_of_lt hbits, Nat.add_assoc,
    FloatFormat.read_signBits_add neg hmag, FloatFormat.datumOf, if_neg (by omega), if_neg (by omega)]

theorem isNaN32_ref64Mix_of_sum {ws wc : Weight} {x0 x1 : F32} (h : ref64Sum ws x0 wc x1 = .nan) :
    isNaN32 (ref64Mix ws x0 wc x1) = true := by
  rw [ref64Mix, h]
  exact isNaN32_nanPattern _

@[simp] theorem FloatFormat.rounded_nan (f : FloatFormat) : f.rounded .nan = .nan := rfl

@[simp] theorem Datum.nan_mul (d : Datum) : Datum.mul .nan d = .nan := by cases d <;> rfl

@[simp] theorem Datum.mul_nan (d : Datum) : Datum.mul d .nan = .nan := by cases d <;> rfl

@[simp] theorem Datum.nan_add (d : Datum) : Datum.add .nan d = .nan := by cases d <;> rfl

@[simp] theorem Datum.add_nan (d : Datum) : Datum.add d .nan = .nan := by cases d <;> rfl

/-- A zero times an infinity is a NaN. -/
theorem Datum.mul_inf_of_value_eq_zero {f : FloatFormat} {bits : Nat} (neg : Bool)
    (hfin : (f.read bits).isFinite = true) (hzero : (f.read bits).value = 0) :
    Datum.mul (f.read bits) (.inf neg) = .nan := by
  rw [f.read_eq, FloatFormat.datumOf] at *
  split_ifs at * with hmag
  · have hnum : f.magValue (bits % 2 ^ (f.expBits + f.fracBits)) = 0 := by
      rw [Datum.value, mul_eq_zero, div_eq_zero_iff] at hzero
      rcases hzero with h | h | h
      · split_ifs at h <;> norm_num at h
      · exact_mod_cast h
      · exact absurd h (by positivity)
    rw [Datum.mul, if_pos hnum]
  · cases hfin
  · cases hfin

theorem ref64Sum_nan_of_left {ws : Weight} {x0 : F32} (wc : Weight) (x1 : F32)
    (h : Datum.mul (binary64.read ws.toNat) (binary32.read x0.toNat) = .nan) : ref64Sum ws x0 wc x1 = .nan := by
  simp [ref64Sum, h]

theorem ref64Sum_nan_of_right (ws : Weight) (x0 : F32) {wc : Weight} {x1 : F32}
    (h : Datum.mul (binary64.read wc.toNat) (binary32.read x1.toNat) = .nan) : ref64Sum ws x0 wc x1 = .nan := by
  simp [ref64Sum, h]

/-! ### The order of the two products -/

theorem Datum.addFin_comm (a b : Bool) (num den num' den' : Nat) :
    Datum.addFin a num den b num' den' = Datum.addFin b num' den' a num den := by
  simp only [Datum.addFin, Nat.mul_comm den' den, eq_comm (a := b)]
  split_ifs with hsign hlt hgt
  · rw [hsign, Nat.add_comm]
  · omega
  · rfl
  · rfl
  · rfl

theorem Datum.add_symm (d e : Datum) : Datum.add d e = Datum.add e d := by
  cases d <;> cases e
  case inf.inf a b => cases a <;> cases b <;> rfl
  case fin.fin => exact Datum.addFin_comm ..
  all_goals rfl

theorem ref64Sum_comm (ws wc : Weight) (x0 x1 : F32) : ref64Sum ws x0 wc x1 = ref64Sum wc x1 ws x0 := by
  rw [ref64Sum, ref64Sum, Datum.add_symm]

/-- Settles O60: a NaN product makes the sum a NaN, and the exact sum commutes. -/
theorem referenceMixPropagatesNaNInAnyOrder : Obligations.ReferenceMixPropagatesNaNInAnyOrder := by
  refine ⟨fun ws wc x0 x1 h => isNaN32_ref64Mix_of_sum ?_, fun ws wc x0 x1 h => ?_⟩
  · rcases h with h | h | h | h | ⟨hzero, hfin, neg, hinf⟩ | ⟨hzero, hfin, neg, hinf⟩
    · exact ref64Sum_nan_of_left wc x1 (by rw [h, Datum.nan_mul])
    · exact ref64Sum_nan_of_left wc x1 (by rw [of_decide_eq_true h, Datum.mul_nan])
    · exact ref64Sum_nan_of_right ws x0 (by rw [h, Datum.nan_mul])
    · exact ref64Sum_nan_of_right ws x0 (by rw [of_decide_eq_true h, Datum.mul_nan])
    · exact ref64Sum_nan_of_left wc x1 (by rw [hinf, Datum.mul_inf_of_value_eq_zero neg hfin hzero])
    · exact ref64Sum_nan_of_right ws x0 (by rw [hinf, Datum.mul_inf_of_value_eq_zero neg hfin hzero])
  · have hsum : ref64Sum ws x0 wc x1 ≠ .nan := fun hnan => by
      rw [isNaN32_ref64Mix_of_sum hnan] at h
      cases h
    cases hs : ref64Sum ws x0 wc x1 with
    | nan => exact absurd hs hsum
    | inf | fin => rw [ref64Mix, ref64Mix, ref64Sum_comm wc, hs]

end Sys2Proof.Machine
end

section
/-! PROOFS. Floating-point arithmetic as arithmetic of numbers (spec 00_scope.md R16, 41_batch_sequencer.md R126): what number
a datum denotes, what products, sums and roundings do to it, and when a number rounds to a given pattern. -/

namespace Sys2Proof.Machine

/-! ### The number a datum denotes -/

/-- The datum is finite and denotes the number `v`. -/
def Datum.Denotes (d : Datum) (v : Rat) : Prop :=
  ∃ neg num den, d = .fin neg num den ∧ 0 < den ∧ v = Datum.value (.fin neg num den)

theorem Datum.denotes_fin (neg : Bool) (num : Nat) {den : Nat} (hden : 0 < den) :
    Datum.Denotes (.fin neg num den) (Datum.value (.fin neg num den)) := ⟨neg, num, den, rfl, hden, rfl⟩

theorem Datum.Denotes.value_eq {d : Datum} {v : Rat} (h : d.Denotes v) : d.value = v := by
  obtain ⟨neg, num, den, rfl, -, rfl⟩ := h
  rfl

theorem Datum.Denotes.isFinite {d : Datum} {v : Rat} (h : d.Denotes v) : d.isFinite = true := by
  obtain ⟨neg, num, den, rfl, -⟩ := h
  rfl

theorem Datum.abs_value_fin (neg : Bool) (num den : Nat) :
    |Datum.value (.fin neg num den)| = (num : Rat) / den := by
  have hpos : |(num : Rat) / den| = num / den := abs_of_nonneg (by positivity)
  cases neg <;> simp [Datum.value, hpos]

theorem Datum.Denotes.mul {d e : Datum} {v w : Rat} (hd : d.Denotes v) (he : e.Denotes w) :
    (Datum.mul d e).Denotes (v * w) := by
  obtain ⟨a, num, den, rfl, hden, rfl⟩ := hd
  obtain ⟨b, num', den', rfl, hden', rfl⟩ := he
  refine ⟨_, _, _, rfl, Nat.mul_pos hden hden', ?_⟩
  have hsign : ((if (a != b) then -1 else 1) : Rat) = (if a then -1 else 1) * (if b then -1 else 1) := by
    cases a <;> cases b <;> norm_num
  simp only [Datum.value, hsign, Nat.cast_mul, mul_div_mul_comm]
  ring

/-- The numerator with its sign. -/
def Datum.signedNum (neg : Bool) (num : Nat) : Int := if neg then -num else num

theorem Datum.value_fin (neg : Bool) (num den : Nat) :
    Datum.value (.fin neg num den) = (Datum.signedNum neg num : Rat) / den := by
  cases neg <;> simp [Datum.value, Datum.signedNum, neg_div]

theorem Datum.signedNum_not (neg : Bool) (num : Nat) : Datum.signedNum (!neg) num = -Datum.signedNum neg num := by
  cases neg <;> simp [Datum.signedNum]

theorem Datum.signedNum_mul (neg : Bool) (num k : Nat) :
    Datum.signedNum neg (num * k) = Datum.signedNum neg num * k := by
  cases neg <;> simp [Datum.signedNum]

theorem Datum.signedNum_add (neg : Bool) (x y : Nat) :
    Datum.signedNum neg (x + y) = Datum.signedNum neg x + Datum.signedNum neg y := by
  cases neg <;> simp [Datum.signedNum, add_comm]

theorem Datum.signedNum_sub (neg : Bool) {x y : Nat} (h : y ≤ x) :
    Datum.signedNum neg (x - y) = Datum.signedNum neg x - Datum.signedNum neg y := by
  rw [eq_sub_iff_add_eq, ← Datum.signedNum_add, Nat.sub_add_cancel h]

/-- The exact sum has the product of the denominators and the sum of the signed numerators. -/
theorem Datum.addFin_eq (a b : Bool) (num den num' den' : Nat) :
    ∃ neg k, Datum.addFin a num den b num' den' = .fin neg k (den * den') ∧
      Datum.signedNum neg k = Datum.signedNum a num * den' + Datum.signedNum b num' * den := by
  simp only [Datum.addFin, ← Datum.signedNum_mul]
  generalize num * den' = x
  generalize num' * den = y
  split_ifs with hsign hlt hgt
  · exact ⟨a, x + y, rfl, by rw [Datum.signedNum_add, hsign]⟩
  all_goals obtain rfl : b = !a := Bool.eq_not.2 (Ne.symm hsign)
  · exact ⟨a, x - y, rfl, by rw [Datum.signedNum_sub a hlt.le, Datum.signedNum_not, sub_eq_add_neg]⟩
  · refine ⟨!a, y - x, rfl, ?_⟩
    rw [Datum.signedNum_sub _ hgt.le, Datum.signedNum_not, Datum.signedNum_not, sub_neg_eq_add, add_comm]
  · obtain rfl : x = y := by omega
    exact ⟨false, 0, rfl, by rw [Datum.signedNum_not, add_neg_cancel]; rfl⟩

theorem Datum.Denotes.add {d e : Datum} {v w : Rat} (hd : d.Denotes v) (he : e.Denotes w) :
    (Datum.add d e).Denotes (v + w) := by
  obtain ⟨a, num, den, rfl, hden, rfl⟩ := hd
  obtain ⟨b, num', den', rfl, hden', rfl⟩ := he
  obtain ⟨neg, k, hk, hsum⟩ := Datum.addFin_eq a b num den num' den'
  have hd : (den : Rat) ≠ 0 := by exact_mod_cast hden.ne'
  have hd' : (den' : Rat) ≠ 0 := by exact_mod_cast hden'.ne'
  refine ⟨neg, k, _, hk, Nat.mul_pos hden hden', ?_⟩
  rw [Datum.value_fin, Datum.value_fin, Datum.value_fin, hsum, div_add_div _ _ hd hd']
  push_cast
  ring

/-! ### The numbers of a format -/

/-- `v` or `-v` is what a finite magnitude pattern denotes. -/
def FloatFormat.Number (f : FloatFormat) (v : Rat) : Prop :=
  ∃ mag, mag < f.infBits ∧ |v| = (f.magValue mag : Rat) / (2 ^ f.minExp : Nat)

theorem FloatFormat.number_zero (f : FloatFormat) (hexp : 2 ≤ f.expBits) : f.Number 0 := by
  refine ⟨0, ?_, by simp [FloatFormat.magValue]⟩
  rw [FloatFormat.infBits_eq hexp]
  positivity

theorem FloatFormat.Number.neg {f : FloatFormat} {v : Rat} (h : f.Number v) : f.Number (-v) := by
  rwa [FloatFormat.Number, abs_neg]

theorem FloatFormat.denotes_datumOf {f : FloatFormat} {neg : Bool} {mag : Nat}
    (h : (f.datumOf neg mag).isFinite = true) :
    (f.datumOf neg mag).Denotes (f.datumOf neg mag).value ∧ f.Number (f.datumOf neg mag).value := by
  rw [FloatFormat.datumOf] at *
  split_ifs at * with hmag
  · exact ⟨Datum.denotes_fin _ _ (by positivity), _, hmag, Datum.abs_value_fin ..⟩
  · cases h
  · cases h

theorem FloatFormat.Number.abs {f : FloatFormat} {v : Rat} (h : f.Number v) : f.Number |v| := by
  rwa [FloatFormat.Number, abs_abs]

/-- What a finite pattern denotes. -/
theorem FloatFormat.denotes_read {f : FloatFormat} {bits : Nat} (h : (f.read bits).isFinite = true) :
    (f.read bits).Denotes (f.read bits).value ∧ f.Number (f.read bits).value := by
  rw [f.read_eq] at *
  exact FloatFormat.denotes_datumOf h

theorem denotes_of_isFinite32 {x : F32} (h : isFinite32 x = true) :
    (binary32.read x.toNat).Denotes (value32 x) ∧ binary32.Number (value32 x) := FloatFormat.denotes_read h

theorem denotes_of_isFinite64 {w : Weight} (h : isFinite64 w = true) :
    (binary64.read w.toNat).Denotes (value64 w) := (FloatFormat.denotes_read h).1

/-- A significand of one bit more than the fraction, at any exponent, is the number of some magnitude pattern. -/
theorem FloatFormat.exists_magValue_eq (f : FloatFormat) (t : Nat) {q : Nat} (hq : q ≤ 2 ^ (f.fracBits + 1)) :
    ∃ mag, f.magValue mag = q * 2 ^ t := by
  induction t generalizing q with
  | zero => exact ⟨_, f.magValue_grid (t := 0) (.inl rfl) hq⟩
  | succ t ih =>
    by_cases hnormal : 2 ^ f.fracBits ≤ q
    · exact ⟨_, f.magValue_grid (.inr hnormal) hq⟩
    · obtain ⟨mag, hmag⟩ := ih (q := 2 * q) (by rw [Nat.pow_succ]; omega)
      exact ⟨mag, by rw [hmag]; ring⟩

theorem FloatFormat.magValue_infBits {f : FloatFormat} (hfrac : 1 ≤ f.fracBits) (hexp : 2 ≤ f.expBits) :
    f.magValue f.infBits = 2 ^ (f.bias + 1) * 2 ^ f.minExp := by
  obtain ⟨mag, b, hb, hinf, -, -, htop⟩ := f.exists_largest hfrac hexp
  rw [hinf, htop, FloatFormat.minExp, hb, Nat.add_sub_cancel]
  ring

/-- The numbers of a format: a significand of one bit more than the fraction, times a power of two, below the overflow. -/
theorem FloatFormat.number_iff {f : FloatFormat} (hfrac : 1 ≤ f.fracBits) (hexp : 2 ≤ f.expBits) (v : Rat) :
    f.Number v ↔ |v| < 2 ^ (f.bias + 1) ∧
      ∃ q t : Nat, q ≤ 2 ^ (f.fracBits + 1) ∧ |v| = (q * 2 ^ t : Nat) / (2 ^ f.minExp : Nat) := by
  have hunit : (0 : Rat) < (2 ^ f.minExp : Nat) := by positivity
  have hlt (mag : Nat) : mag < f.infBits ↔ (f.magValue mag : Rat) / (2 ^ f.minExp : Nat) < 2 ^ (f.bias + 1) := by
    rw [div_lt_iff₀ hunit, ← f.magValue_strictMono.lt_iff_lt, magValue_infBits hfrac hexp]
    exact_mod_cast Iff.rfl
  constructor
  · rintro ⟨mag, hmag, hv⟩
    obtain ⟨t, q, hnormal, htop, rfl⟩ := f.exists_grid mag
    refine ⟨hv ▸ (hlt _).1 hmag, q, t, htop.le, ?_⟩
    rw [hv, f.magValue_grid hnormal htop.le]
  · rintro ⟨hsmall, q, t, hq, hv⟩
    obtain ⟨mag, hmag⟩ := f.exists_magValue_eq t hq
    rw [← hmag] at hv
    exact ⟨mag, (hlt mag).2 (hv ▸ hsmall), hv⟩

/-! ### Rounding a number -/

/-- `w` is a rounding of `v` into the format: no number of the format is nearer, and it is within half a unit in the last
place, in the normal or in the subnormal range. -/
structure FloatFormat.Rounds (f : FloatFormat) (v w : Rat) : Prop where
  number : f.Number w
  nearest : ∀ u, f.Number u → |w - v| ≤ |u - v|
  close : |w - v| ≤ max (|v| / 2 ^ (f.fracBits + 1)) (1 / 2 ^ (f.minExp + 1))

theorem FloatFormat.Rounds.eq_of_number {f : FloatFormat} {v w : Rat} (h : f.Rounds v w) (hv : f.Number v) : w = v := by
  have := h.nearest v hv
  rw [sub_self, abs_zero] at this
  exact sub_eq_zero.1 (abs_nonpos_iff.1 this)

theorem FloatFormat.Rounds.le {f : FloatFormat} {v w u : Rat} (h : f.Rounds v w) (hu : f.Number u) (hle : v ≤ u) :
    w ≤ u := by
  by_contra hlt
  have := h.nearest u hu
  rw [abs_of_nonneg (by linarith), abs_of_nonneg (by linarith)] at this
  linarith

theorem FloatFormat.Rounds.ge {f : FloatFormat} {v w u : Rat} (h : f.Rounds v w) (hu : f.Number u) (hle : u ≤ v) :
    u ≤ w := by
  by_contra hlt
  have := h.nearest u hu
  rw [abs_of_nonpos (by linarith), abs_of_nonpos (by linarith)] at this
  linarith

theorem FloatFormat.Rounds.abs_le_of_number {f : FloatFormat} {v w u : Rat} (h : f.Rounds v w) (hu : f.Number u)
    (hle : |v| ≤ u) : |w| ≤ u :=
  abs_le.2 ⟨h.ge hu.neg (abs_le.1 hle).1, h.le hu (abs_le.1 hle).2⟩

theorem FloatFormat.two_mul_gap_roundMag_le {f : FloatFormat} (hfrac : 1 ≤ f.fracBits) (num : Nat) {den : Nat}
    (hden : 0 < den) : 2 * f.gap num den (f.roundMag num den) ≤ den * 2 ^ ulpExp f num den := by
  obtain ⟨hrest, hgap⟩ := f.gap_cases num hden (f.roundMag num den)
  rcases f.roundMag_cases hfrac num den with ⟨hk, hnearer⟩ | ⟨hk, hnearer⟩ <;> omega

/-- One unit in the last place is relative above the subnormal range, and one smallest positive value in it. -/
theorem FloatFormat.ulp_le (f : FloatFormat) (num : Nat) {den : Nat} (hden : 0 < den) :
    (2 ^ ulpExp f num den : Rat) / 2 ^ f.minExp ≤ max ((num : Rat) / den / 2 ^ f.fracBits) (1 / 2 ^ f.minExp) := by
  have hd : (0 : Rat) < den := by exact_mod_cast hden
  obtain ⟨hsub | hnormal, -⟩ := ulpExp_spec f num den
  · exact le_max_of_le_right (by rw [hsub, pow_zero])
  · refine le_max_of_le_left ?_
    have h := (Nat.le_div_iff_mul_le (by positivity)).1 hnormal
    rw [div_div, div_le_div_iff₀ (by positivity) (by positivity)]
    have : 2 ^ ulpExp f num den * (den * 2 ^ f.fracBits) ≤ num * 2 ^ f.minExp := by linarith
    exact_mod_cast this

theorem Datum.abs_value_sub (neg : Bool) (num den num' den' : Nat) :
    |Datum.value (.fin neg num den) - Datum.value (.fin neg num' den')| =
      |(num : Rat) / den - (num' : Rat) / den'| := by
  cases neg
  · simp [Datum.value]
  · simp only [Datum.value, if_true, neg_one_mul, ← neg_sub', abs_neg]

/-- How far a magnitude with the sign of a number is from it. -/
theorem FloatFormat.abs_value_sub_eq_gap (f : FloatFormat) (neg : Bool) (num : Nat) {den : Nat} (hden : 0 < den)
    (mag : Nat) :
    |Datum.value (.fin neg (f.magValue mag) (2 ^ f.minExp)) - Datum.value (.fin neg num den)| =
      f.gap num den mag / ((2 ^ f.minExp : Nat) * den) := by
  rw [Datum.abs_value_sub, f.abs_sub_eq_gap num hden]

/-- Where it does not overflow, `roundMag` is the magnitude of a rounding. -/
theorem FloatFormat.rounds_roundMag {f : FloatFormat} (hfrac : 1 ≤ f.fracBits) (neg : Bool) (num : Nat) {den : Nat}
    (hden : 0 < den) (hfinite : f.roundMag num den < f.infBits) :
    f.Rounds (Datum.value (.fin neg num den))
      (Datum.value (.fin neg (f.magValue (f.roundMag num den)) (2 ^ f.minExp))) := by
  have hd : (0 : Rat) < den := by exact_mod_cast hden
  refine ⟨⟨_, hfinite, Datum.abs_value_fin ..⟩, fun u ⟨mag, _, hu⟩ => ?_, ?_⟩
  · rw [f.abs_value_sub_eq_gap neg num hden]
    calc (f.gap num den (f.roundMag num den) : Rat) / ((2 ^ f.minExp : Nat) * den)
      _ ≤ f.gap num den mag / ((2 ^ f.minExp : Nat) * den) := by
          gcongr
          exact (FloatFormat.roundMag_nearest hfrac num hden mag).1
      _ = |(|u| - |Datum.value (.fin neg num den)|)| := by
          rw [hu, Datum.abs_value_fin, f.abs_sub_eq_gap num hden]
      _ ≤ |u - Datum.value (.fin neg num den)| := abs_abs_sub_abs_le _ _
  · have hgap : (2 * f.gap num den (f.roundMag num den) : Rat) ≤ den * 2 ^ ulpExp f num den := by
      exact_mod_cast FloatFormat.two_mul_gap_roundMag_le hfrac num hden
    rw [f.abs_value_sub_eq_gap neg num hden]
    calc (f.gap num den (f.roundMag num den) : Rat) / ((2 ^ f.minExp : Nat) * den)
      _ ≤ 2 ^ ulpExp f num den / 2 ^ f.minExp / 2 := by
          push_cast
          rw [div_div, div_le_div_iff₀ (by positivity) (by positivity)]
          nlinarith [show (0 : Rat) < 2 ^ f.minExp by positivity]
      _ ≤ max ((num : Rat) / den / 2 ^ f.fracBits) (1 / 2 ^ f.minExp) / 2 := by
          gcongr
          exact f.ulp_le num hden
      _ = max (|Datum.value (.fin neg num den)| / 2 ^ (f.fracBits + 1)) (1 / 2 ^ (f.minExp + 1)) := by
          rw [Datum.abs_value_fin, ← max_div_div_right (zero_le_two (α := Rat)), div_div _ _ 2, div_div _ _ 2, pow_succ,
            pow_succ]

/-- From this number on a rounding overflows (00_scope.md R16). -/
def FloatFormat.overflow (f : FloatFormat) : Rat := (2 ^ (f.fracBits + 2) - 1) * 2 ^ f.bias / 2 ^ (f.fracBits + 1)

theorem FloatFormat.roundMag_lt_infBits_iff {f : FloatFormat} (hfrac : 1 ≤ f.fracBits) (hexp : 2 ≤ f.expBits)
    {num den : Nat} (hden : 0 < den) : f.roundMag num den < f.infBits ↔ (num : Rat) / den < f.overflow := by
  have hd : (0 : Rat) < den := by exact_mod_cast hden
  have hone : 1 ≤ 2 ^ (f.fracBits + 2) := Nat.one_le_two_pow
  rw [← not_le, infBits_le_roundMag_iff hfrac hexp num hden, not_le, FloatFormat.overflow,
    div_lt_div_iff₀ hd (by positivity)]
  zify [hone]
  exact_mod_cast Iff.rfl

/-- No number of the format overflows. -/
theorem FloatFormat.Number.abs_lt_overflow {f : FloatFormat} (hfrac : 1 ≤ f.fracBits) (hexp : 2 ≤ f.expBits) {v : Rat}
    (h : f.Number v) : |v| < f.overflow := by
  obtain ⟨mag, hmag, hv⟩ := h
  rwa [hv, ← FloatFormat.roundMag_lt_infBits_iff hfrac hexp (by positivity), FloatFormat.roundMag_magValue hfrac]

theorem Datum.Denotes.rounded {f : FloatFormat} (hf : f = binary32 ∨ f = binary64) {d : Datum} {v : Rat}
    (h : d.Denotes v) (hlt : |v| < f.overflow) : ∃ w, (f.rounded d).Denotes w ∧ f.Rounds v w := by
  obtain ⟨neg, num, den, rfl, hden, rfl⟩ := h
  rw [Datum.abs_value_fin] at hlt
  have hfinite := (FloatFormat.roundMag_lt_infBits_iff (one_le_fracBits hf) (two_le_expBits hf) hden).2 hlt
  refine ⟨_, ?_, FloatFormat.rounds_roundMag (one_le_fracBits hf) neg num hden hfinite⟩
  rw [FloatFormat.rounded, f.read_round, min_eq_right hfinite.le, FloatFormat.datumOf, if_pos hfinite]
  exact Datum.denotes_fin _ _ (by positivity)

/-! ### When a number rounds to a given pattern -/

/-- The step from a magnitude pattern to the next one is at least a unit in the last place of the next one, and exactly that
only from an odd pattern to a power of two. -/
theorem FloatFormat.exists_step {f : FloatFormat} (hfrac : 1 ≤ f.fracBits) (mag : Nat) :
    ∃ step, 0 < step ∧ f.magValue (mag + 1) = f.magValue mag + step ∧
      (f.magValue (mag + 1) < step * 2 ^ (f.fracBits + 1) ∨
        f.magValue (mag + 1) = step * 2 ^ (f.fracBits + 1) ∧ mag % 2 = 1) := by
  obtain ⟨t, q, hnormal, htop, rfl⟩ := f.exists_grid mag
  have hsucc : f.magValue (t * 2 ^ f.fracBits + q + 1) = (q + 1) * 2 ^ t := f.magValue_grid (by omega) htop
  refine ⟨2 ^ t, by positivity, by rw [hsucc, f.magValue_grid hnormal htop.le, Nat.succ_mul], ?_⟩
  rw [hsucc, Nat.mul_comm]
  rcases Nat.lt_or_eq_of_le (show q + 1 ≤ 2 ^ (f.fracBits + 1) from htop) with hlt | heq
  · exact .inl (Nat.mul_lt_mul_of_pos_left hlt (by positivity))
  · refine .inr ⟨by rw [heq], ?_⟩
    have := FloatFormat.mul_two_pow_fracBits_even hfrac t
    rw [Nat.pow_succ] at heq
    omega

/-- Two patterns are no farther apart than their distances from a number add up to. -/
theorem FloatFormat.dist_le_gap_add_gap {f : FloatFormat} (num : Nat) {den low high dist : Nat}
    (h : f.magValue low * den + dist ≤ f.magValue high * den) : dist ≤ f.gap num den low + f.gap num den high := by
  rw [FloatFormat.gap, FloatFormat.gap]
  omega

/-- A number that is within a quarter of the last place of a pattern rounds to it: exactly a quarter is a tie only below a
power of two, whose pattern is the even one of the two. -/
theorem FloatFormat.roundMag_of_near {f : FloatFormat} (hfrac : 1 ≤ f.fracBits) {mag num den : Nat} (hden : 0 < den)
    (hnear : f.gap num den mag * 2 ^ (f.fracBits + 2) ≤ f.magValue mag * den) : f.roundMag num den = mag := by
  obtain ⟨hle, htie⟩ := f.roundMag_nearest hfrac num hden mag
  generalize f.roundMag num den = k at *
  rw [Nat.pow_succ, ← Nat.mul_assoc] at hnear
  have hpos : 0 < 2 ^ (f.fracBits + 1) := by positivity
  have hle' := Nat.mul_le_mul_right (2 ^ (f.fracBits + 1)) hle
  rcases lt_trichotomy k mag with hlt | heq | hgt
  · obtain ⟨pred, rfl⟩ : ∃ pred, mag = pred + 1 := ⟨mag - 1, by omega⟩
    obtain ⟨step, -, hsucc, hulp⟩ := f.exists_step hfrac pred
    have hk : f.magValue k * den ≤ f.magValue pred * den :=
      Nat.mul_le_mul_right den (f.magValue_strictMono.monotone (Nat.le_of_lt_succ hlt))
    have hnext : f.magValue (pred + 1) * den = f.magValue pred * den + step * den := by rw [hsucc, Nat.add_mul]
    have hdist := f.dist_le_gap_add_gap num (den := den) (low := k) (high := pred + 1) (dist := step * den) (by omega)
    have hlast : f.magValue (pred + 1) * den ≤ step * den * 2 ^ (f.fracBits + 1) := by
      rw [Nat.mul_right_comm]
      exact Nat.mul_le_mul_right den (by omega)
    have htight : 2 * f.gap num den (pred + 1) ≤ step * den := Nat.le_of_mul_le_mul_right (by linarith) hpos
    have hodd : pred % 2 = 1 := by
      rcases hulp with hulp | ⟨-, hodd⟩
      · have := Nat.mul_lt_mul_of_pos_right hulp hden
        have := Nat.mul_le_mul_right (2 ^ (f.fracBits + 1)) hdist
        linarith
      · exact hodd
    rcases Nat.lt_or_eq_of_le (Nat.le_of_lt_succ hlt) with hk' | rfl
    · have hk' := f.magValue_mul_lt hden hk'
      have := f.dist_le_gap_add_gap num (den := den) (low := k) (high := pred + 1) (dist := step * den + 1) (by omega)
      omega
    · have := htie (by omega) (by omega)
      omega
  · exact heq
  · obtain ⟨step, hstep, hsucc, hulp⟩ := f.exists_step hfrac mag
    have hk : f.magValue (mag + 1) * den ≤ f.magValue k * den :=
      Nat.mul_le_mul_right den (f.magValue_strictMono.monotone hgt)
    rw [hsucc, Nat.add_mul] at hk
    have hdist := f.dist_le_gap_add_gap num hk
    have hlast : f.magValue mag * den < step * 2 ^ (f.fracBits + 1) * den :=
      Nat.mul_lt_mul_of_pos_right (by omega) hden
    have := Nat.mul_le_mul_right (2 ^ (f.fracBits + 1)) hdist
    linarith

theorem Datum.sign_eq_of_near {neg neg' : Bool} {num den num' den' : Nat}
    (h : |Datum.value (.fin neg num den) - Datum.value (.fin neg' num' den')| < |Datum.value (.fin neg' num' den')|) :
    neg = neg' := by
  have hnum : (0 : Rat) ≤ (num : Rat) / den := by positivity
  have hnum' : (0 : Rat) ≤ (num' : Rat) / den' := by positivity
  rw [Datum.abs_value_fin, abs_lt] at h
  cases neg <;> cases neg' <;> simp only [Datum.value] at h ⊢ <;> norm_num at h <;> linarith

/-- A number that is relatively closer to that of a pattern than a quarter of the last place rounds to the pattern, sign
included. -/
theorem FloatFormat.round_of_near {f : FloatFormat} (hfrac : 1 ≤ f.fracBits) {bits : Nat}
    (hbits : bits < 2 ^ (1 + f.expBits + f.fracBits)) {neg : Bool} {num den : Nat} (hden : 0 < den)
    (hfinite : (f.read bits).isFinite = true) (hne : (f.read bits).value ≠ 0)
    (hnear : |Datum.value (.fin neg num den) - (f.read bits).value| ≤ |(f.read bits).value| / 2 ^ (f.fracBits + 2)) :
    f.round neg num den = bits := by
  obtain ⟨neg', mag, hmag, rfl⟩ := f.exists_signBits_add hbits
  rw [FloatFormat.read_signBits_add neg' hmag] at *
  obtain ⟨_, _, _, hread, -⟩ := (FloatFormat.denotes_datumOf hfinite).1
  obtain ⟨hlt, rfl, rfl, rfl⟩ := FloatFormat.datumOf_eq_fin hread
  rw [hread] at hne hnear
  have hsmall : |Datum.value (.fin neg' (f.magValue mag) (2 ^ f.minExp))| / 2 ^ (f.fracBits + 2) <
      |Datum.value (.fin neg' (f.magValue mag) (2 ^ f.minExp))| :=
    div_lt_self (abs_pos.2 hne) (one_lt_pow₀ one_lt_two (by omega))
  obtain rfl : neg = neg' := Datum.sign_eq_of_near (hnear.trans_lt hsmall)
  rw [f.round_eq, FloatFormat.roundMag_of_near hfrac hden, min_eq_right hlt.le]
  rw [abs_sub_comm, f.abs_value_sub_eq_gap neg num hden, Datum.abs_value_fin, div_div,
    div_le_div_iff₀ (by positivity) (by positivity)] at hnear
  have hunit : (0 : Rat) < (2 ^ f.minExp : Nat) := by positivity
  have : (f.gap num den mag : Rat) * 2 ^ (f.fracBits + 2) ≤ f.magValue mag * den :=
    le_of_mul_le_mul_right (by linarith) hunit
  exact_mod_cast this

end Sys2Proof.Machine
end

section
/-! PROOFS. `REF64.mix` as arithmetic of numbers (spec 41_batch_sequencer.md R120, R126): two products and a sum rounded to
binary64, one rounding to binary32; exact where the numbers allow it. -/

namespace Sys2Proof.Machine

/-! ### The two formats -/

theorem overflow32_eq : binary32.overflow = 2 ^ 128 - 2 ^ 103 := by
  norm_num [FloatFormat.overflow, FloatFormat.bias, binary32]

theorem overflow64_ge : 7 / 4 * 2 ^ 1023 ≤ binary64.overflow := by
  have hbias : binary64.bias = 1023 := rfl
  have hfrac : binary64.fracBits = 52 := rfl
  rw [FloatFormat.overflow, hbias, hfrac, le_div_iff₀ (by positivity)]
  have : (0 : Rat) < 2 ^ 1023 := by positivity
  generalize (2 : Rat) ^ 1023 = b at *
  norm_num
  linarith

theorem two_pow_lt_overflow64 {k : Nat} (hk : k ≤ 1023) : (2 : Rat) ^ k < binary64.overflow :=
  calc (2 : Rat) ^ k ≤ 2 ^ 1023 := pow_le_pow_right₀ one_le_two hk
    _ < 7 / 4 * 2 ^ 1023 := lt_mul_of_one_lt_left (by positivity) (by norm_num)
    _ ≤ binary64.overflow := overflow64_ge

/-- A binary64 rounding is close, relatively but for an underflow far below every binary32 number. -/
theorem FloatFormat.Rounds.close64 {v w : Rat} (h : binary64.Rounds v w) : |w - v| ≤ |v| / 2 ^ 53 + 1 / 2 ^ 200 := by
  have hmax := h.close
  have hmin : binary64.minExp + 1 = 1075 := rfl
  rw [hmin] at hmax
  refine hmax.trans (max_le (le_add_of_nonneg_right (by positivity)) ?_)
  exact le_add_of_nonneg_of_le (by positivity)
    (one_div_le_one_div_of_le (by positivity) (pow_le_pow_right₀ one_le_two (by norm_num)))

theorem abs_lt_of_number32 {u : Rat} (h : binary32.Number u) : |u| < 2 ^ 128 :=
  ((FloatFormat.number_iff (by decide) (by decide) u).1 h).1

/-- A binary32 number, scaled by what binary64 has room for in the significand, is a binary64 number. -/
theorem number64_of_number32_mul {u : Rat} (h : binary32.Number u) {k : Nat} (hk : k ≤ 2 ^ 29) :
    binary64.Number (u * (k / 2 ^ 25)) := by
  obtain ⟨hlt, q, t, hq, hu⟩ := (FloatFormat.number_iff (by decide) (by decide) u).1 h
  have hk' : (k : Rat) ≤ 2 ^ 29 := by exact_mod_cast hk
  have habs : |u * (k / 2 ^ 25)| = |u| * (k / 2 ^ 25) := by
    rw [abs_mul, abs_of_nonneg (show (0 : Rat) ≤ k / 2 ^ 25 by positivity)]
  have hbias : binary32.bias + 1 = 128 := rfl
  have hmin : binary64.minExp = binary32.minExp + 25 + 900 := rfl
  refine (FloatFormat.number_iff (by decide) (by decide) _).2
    ⟨?_, q * k, t + 900, (Nat.mul_le_mul hq hk).trans_eq (by rfl), ?_⟩
  · calc |u * (k / 2 ^ 25)| = |u| * (k / 2 ^ 25) := habs
      _ ≤ 2 ^ 128 * (2 ^ 29 / 2 ^ 25) := by rw [hbias] at hlt; gcongr
      _ = 2 ^ 132 := by norm_num
      _ < 2 ^ (binary64.bias + 1) := pow_lt_pow_right₀ one_lt_two (by decide)
  · have h900 : (2 : Rat) ^ 900 ≠ 0 := by positivity
    have hunit : (2 : Rat) ^ binary64.minExp = 2 ^ binary32.minExp * 2 ^ 25 * 2 ^ 900 := by
      rw [hmin, pow_add 2 (binary32.minExp + 25), pow_add 2 binary32.minExp]
    rw [habs, hu, div_mul_div_comm, Nat.cast_pow, Nat.cast_pow, Nat.cast_two, hunit,
      show q * k * 2 ^ (t + 900) = q * 2 ^ t * k * 2 ^ 900 by
        rw [pow_add, Nat.mul_right_comm q (2 ^ t), Nat.mul_assoc (q * k)], Nat.cast_mul _ (2 ^ 900), Nat.cast_pow,
      Nat.cast_two, mul_div_mul_right _ _ h900, Nat.cast_mul _ k]

/-- Every binary32 number is a binary64 number. -/
theorem number64_of_number32 {u : Rat} (h : binary32.Number u) : binary64.Number u := by
  have := number64_of_number32_mul h (k := 2 ^ 25) (by norm_num)
  rwa [Nat.cast_pow, Nat.cast_two, div_self (by positivity), mul_one] at this

/-! ### Patterns of roundings -/

theorem FloatFormat.round_lt (f : FloatFormat) (neg : Bool) (num den : Nat) :
    f.round neg num den < 2 ^ (1 + f.expBits + f.fracBits) := by
  have hmag := (min_le_left f.infBits (f.roundMag num den)).trans_lt f.infBits_lt
  have hsign : f.signBits neg ≤ 2 ^ (f.expBits + f.fracBits) := by cases neg <;> simp [FloatFormat.signBits]
  rw [f.round_eq, Nat.add_assoc, Nat.pow_add]
  omega

theorem read_ofNat_round32 (neg : Bool) (num den : Nat) :
    binary32.read (BitVec.ofNat 32 (binary32.round neg num den)).toNat = binary32.rounded (.fin neg num den) := by
  rw [BitVec.toNat_ofNat, Nat.mod_eq_of_lt (show _ < 2 ^ 32 from binary32.round_lt neg num den), FloatFormat.rounded]

theorem read_ofNat_round64 (neg : Bool) (num den : Nat) :
    binary64.read (BitVec.ofNat 64 (binary64.round neg num den)).toNat = binary64.rounded (.fin neg num den) := by
  rw [BitVec.toNat_ofNat, Nat.mod_eq_of_lt (show _ < 2 ^ 64 from binary64.round_lt neg num den), FloatFormat.rounded]

/-! ### The three roundings of the sum and the one of the sample -/

theorem ref64Sum_denotes {ws wc : Weight} {x0 x1 : F32} {a b : Rat} (ha : (binary64.read ws.toNat).Denotes a)
    (hb : (binary64.read wc.toNat).Denotes b) (ha2 : |a| ≤ 2) (hb2 : |b| ≤ 2) (hx0 : isFinite32 x0 = true)
    (hx1 : isFinite32 x1 = true) :
    ∃ p0 p1 s, binary64.Rounds (a * value32 x0) p0 ∧ binary64.Rounds (b * value32 x1) p1 ∧
      binary64.Rounds (p0 + p1) s ∧ (ref64Sum ws x0 wc x1).Denotes s := by
  have product {w : Weight} {c : Rat} (hc : (binary64.read w.toNat).Denotes c) (hc2 : |c| ≤ 2) {x : F32}
      (hx : isFinite32 x = true) : ∃ p, (binary64.rounded
        (Datum.mul (binary64.read w.toNat) (binary32.read x.toNat))).Denotes p ∧
          binary64.Rounds (c * value32 x) p ∧ |p| ≤ 2 ^ 130 := by
    obtain ⟨hd, hnum⟩ := denotes_of_isFinite32 hx
    have hle : |c * value32 x| ≤ 2 ^ 129 := by
      rw [abs_mul]
      calc |c| * |value32 x| ≤ 2 * 2 ^ 128 := by gcongr; exact (abs_lt_of_number32 hnum).le
        _ = 2 ^ 129 := by norm_num
    obtain ⟨p, hp, hround⟩ := (hc.mul hd).rounded (.inr rfl) (hle.trans_lt (two_pow_lt_overflow64 (by norm_num)))
    refine ⟨p, hp, hround, ?_⟩
    have := hround.close64
    have := abs_sub_abs_le_abs_sub p (c * value32 x)
    linarith
  obtain ⟨p0, hp0, hr0, hle0⟩ := product ha ha2 hx0
  obtain ⟨p1, hp1, hr1, hle1⟩ := product hb hb2 hx1
  have hle : |p0 + p1| ≤ 2 ^ 131 := (abs_add_le p0 p1).trans (by linarith)
  obtain ⟨s, hs, hr⟩ := (hp0.add hp1).rounded (.inr rfl) (hle.trans_lt (two_pow_lt_overflow64 (by norm_num)))
  exact ⟨p0, p1, s, hr0, hr1, hr, hs⟩

theorem ref64Mix_of_sum_fin {ws wc : Weight} {x0 x1 : F32} {neg : Bool} {num den : Nat}
    (h : ref64Sum ws x0 wc x1 = .fin neg num den) :
    ref64Mix ws x0 wc x1 = BitVec.ofNat 32 (binary32.round neg num den) := by
  rw [ref64Mix, h]

theorem ref64Mix_denotes {ws wc : Weight} {x0 x1 : F32} {s : Rat} (h : (ref64Sum ws x0 wc x1).Denotes s)
    (hlt : |s| < binary32.overflow) :
    ∃ y, (binary32.read (ref64Mix ws x0 wc x1).toNat).Denotes y ∧ binary32.Rounds s y := by
  obtain ⟨neg, num, den, hsum, hden, rfl⟩ := h
  rw [ref64Mix_of_sum_fin hsum, read_ofNat_round32]
  exact (Datum.denotes_fin neg num hden).rounded (.inl rfl) hlt

/-! ### Where the mix is exact -/

/-- Where both products are binary64 numbers, and the sum is the number of a sample, the mix is that number. -/
theorem sameNumber_ref64Mix {ws wc : Weight} {x0 x1 x : F32} {a b : Rat} (ha : (binary64.read ws.toNat).Denotes a)
    (hb : (binary64.read wc.toNat).Denotes b) (ha2 : |a| ≤ 2) (hb2 : |b| ≤ 2) (hx0 : isFinite32 x0 = true)
    (hx1 : isFinite32 x1 = true) (hx : isFinite32 x = true) (h0 : binary64.Number (a * value32 x0))
    (h1 : binary64.Number (b * value32 x1)) (hsum : a * value32 x0 + b * value32 x1 = value32 x) :
    SameNumber (ref64Mix ws x0 wc x1) x := by
  obtain ⟨p0, p1, s, hr0, hr1, hr, hs⟩ := ref64Sum_denotes ha hb ha2 hb2 hx0 hx1
  obtain ⟨-, hnum⟩ := denotes_of_isFinite32 hx
  rw [hr0.eq_of_number h0, hr1.eq_of_number h1, hsum] at hr
  rw [hr.eq_of_number (number64_of_number32 hnum)] at hs
  have hlt := hnum.abs_lt_overflow (by decide) (by decide)
  obtain ⟨y, hy, hround⟩ := ref64Mix_denotes hs hlt
  exact ⟨hy.isFinite, hx, hy.value_eq.trans (hround.eq_of_number hnum)⟩

theorem denotes_weightZero : (binary64.read weightZero.toNat).Denotes 0 := by
  have h : value64 weightZero = 0 := by decide +kernel
  exact h ▸ denotes_of_isFinite64 (by decide +kernel)

theorem denotes_weightOne : (binary64.read weightOne.toNat).Denotes 1 := by
  have h : value64 weightOne = 1 := by decide +kernel
  exact h ▸ denotes_of_isFinite64 (by decide +kernel)

theorem number64_value32 {x : F32} (h : isFinite32 x = true) : binary64.Number (value32 x) :=
  number64_of_number32 (denotes_of_isFinite32 h).2

/-- Settles O56: a zero product, and the other one exact. -/
theorem referenceNumericsHaveUnitMix : Obligations.ReferenceNumericsHaveUnitMix := by
  intro x0 x1 hx0 hx1
  refine sameNumber_ref64Mix denotes_weightZero denotes_weightOne (by norm_num) (by norm_num) hx0 hx1 hx1 ?_ ?_ (by ring)
  · rw [zero_mul]
    exact binary64.number_zero (by decide)
  · rw [one_mul]
    exact number64_value32 hx1

/-! ### The absorbing mix -/

theorem value32_ne_zero_of_isNormal32 {x : F32} (h : isNormal32 x = true) : value32 x ≠ 0 := by
  obtain ⟨hfin, hexp⟩ := (Bool.and_eq_true _ _).mp h
  intro hzero
  have hmag : binary32.magValue (x.toNat % 2 ^ 31) = 0 := by
    obtain ⟨neg, num, den, hread, hden, hval⟩ := (denotes_of_isFinite32 hfin).1
    rw [hzero, eq_comm, ← abs_eq_zero, Datum.abs_value_fin, div_eq_zero_iff] at hval
    rw [binary32.read_eq] at hread
    obtain ⟨-, -, hnum, -⟩ := FloatFormat.datumOf_eq_fin hread
    have : (den : Rat) ≠ 0 := by exact_mod_cast hden.ne'
    exact hnum ▸ (by exact_mod_cast hval.resolve_right this)
  have : x.toNat % 2 ^ 31 = 0 := binary32.magValue_strictMono.injective hmag
  have := of_decide_eq_true hexp
  omega

/-- `x0` moved by at most its 2^-25th part comes out of binary64's sum still that near. -/
theorem abs_rounds_add_sub_le {u p s : Rat} (hu : binary32.Number u) (hp : |p| ≤ |u| / 2 ^ 25)
    (hs : binary64.Rounds (u + p) s) : |s - u| ≤ |u| / 2 ^ 25 := by
  have hup := number64_of_number32_mul hu (k := 2 ^ 25 + 1) (by norm_num)
  have hdown := number64_of_number32_mul hu (k := 2 ^ 25 - 1) (by norm_num)
  norm_num at hup hdown
  rw [abs_le] at hp ⊢
  rcases abs_choice u with h | h <;> rw [h] at hp ⊢
  · have := hs.le hup (by linarith)
    have := hs.ge hdown (by linarith)
    constructor <;> linarith
  · have := hs.le hdown (by linarith)
    have := hs.ge hup (by linarith)
    constructor <;> linarith

/-- Settles O58: the second product is at most the 2^-25th part of `x0`, and that does not move `x0` to another sample. -/
theorem referenceNumericsAreAbsorbing : Obligations.ReferenceNumericsAreAbsorbing := by
  intro c x0 x1 ⟨hc, hsmall⟩ hx0 hx1
  have hc' := denotes_of_isFinite64 hc
  have hc2 : |value64 c| ≤ 2 := hsmall.trans (by norm_num)
  obtain ⟨hread0, hnum0⟩ := denotes_of_isFinite32 hx0
  refine ⟨fun hnormal hle => ?_, fun hzero => ?_⟩
  · obtain ⟨p0, p1, s, hr0, hr1, hr, hs⟩ := ref64Sum_denotes denotes_weightOne hc' (by norm_num) hc2 hx0 hx1
    rw [one_mul] at hr0
    rw [hr0.eq_of_number (number64_value32 hx0)] at hr
    have hp1 : |p1| ≤ |value32 x0| / 2 ^ 25 := by
      refine hr1.abs_le_of_number (by simpa [div_eq_mul_inv] using number64_of_number32_mul hnum0.abs (k := 1) (by norm_num)) ?_
      calc |value64 c * value32 x1| = |value64 c| * |value32 x1| := abs_mul _ _
        _ ≤ 1 / 2 ^ 24 * (|value32 x0| / 2) := by gcongr
        _ = |value32 x0| / 2 ^ 25 := by ring
    have hnear := abs_rounds_add_sub_le hnum0 hp1 hr
    obtain ⟨neg, num, den, hsum, hden, rfl⟩ := hs
    change ref64Mix weightOne x0 c x1 = x0
    rw [ref64Mix_of_sum_fin hsum, FloatFormat.round_of_near (f := binary32) (by decide) x0.isLt hden hx0
      (value32_ne_zero_of_isNormal32 hnormal) hnear, BitVec.ofNat_toNat, BitVec.setWidth_eq]
  · refine sameNumber_ref64Mix denotes_weightOne hc' (by norm_num) hc2 hx0 hx1 hx0 ?_ ?_ (by rw [hzero]; ring)
    · rw [one_mul]
      exact number64_value32 hx0
    · rw [hzero, mul_zero]
      exact binary64.number_zero (by decide)

end Sys2Proof.Machine
end

section
/-! PROOFS. The nested series of `REF64` (spec 41_batch_sequencer.md R119, log 11) are the Taylor sums of sine and cosine, and
consecutive ones bracket them. -/

namespace Sys2Proof.Machine

/-! ### What the Taylor series of sine and cosine leave -/

/-- A term of the two series, without its sign. -/
noncomputable def taylorTerm (k : Nat) (x : ℝ) : ℝ := x ^ k / k.factorial

/-- The cosine, the sine, and what is left of them after each of their Taylor terms, signs made alike. -/
noncomputable def trigTail : Nat → ℝ → ℝ
  | 0, x => Real.cos x
  | 1, x => Real.sin x
  | k + 2, x => taylorTerm k x - trigTail k x

@[simp] theorem taylorTerm_zero (x : ℝ) : taylorTerm 0 x = 1 := by simp [taylorTerm]

@[simp] theorem taylorTerm_one (x : ℝ) : taylorTerm 1 x = x := by simp [taylorTerm]

@[simp] theorem taylorTerm_succ_at_zero (k : Nat) : taylorTerm (k + 1) 0 = 0 := by simp [taylorTerm]

theorem taylorTerm_nonneg (k : Nat) {x : ℝ} (hx : 0 ≤ x) : 0 ≤ taylorTerm k x := by
  rw [taylorTerm]
  positivity

theorem hasDerivAt_taylorTerm (k : Nat) (x : ℝ) : HasDerivAt (taylorTerm (k + 1)) (taylorTerm k x) x := by
  have h := (hasDerivAt_pow (k + 1) x).div_const ((k + 1).factorial : ℝ)
  rwa [Nat.add_sub_cancel, Nat.factorial_succ, Nat.cast_mul,
    mul_div_mul_left _ _ (by positivity : ((k + 1 : Nat) : ℝ) ≠ 0), ← Nat.cast_mul, ← Nat.factorial_succ] at h

theorem hasDerivAt_trigTail (k : Nat) (x : ℝ) : HasDerivAt (trigTail (k + 1)) (trigTail k x) x := by
  induction k using Nat.twoStepInduction with
  | zero => exact Real.hasDerivAt_sin x
  | one => simpa [trigTail] using (Real.hasDerivAt_cos x).const_sub 1
  | more k ih _ => exact (hasDerivAt_taylorTerm k x).sub ih

theorem trigTail_succ_at_zero (k : Nat) : trigTail (k + 1) 0 = 0 := by
  induction k using Nat.twoStepInduction with
  | zero => exact Real.sin_zero
  | one => simp [trigTail]
  | more k ih _ => rw [trigTail, ih, taylorTerm_succ_at_zero, sub_zero]

/-- Each is at most its next Taylor term: both vanish at 0, and so compare their derivatives. -/
theorem trigTail_le_taylorTerm (k : Nat) {x : ℝ} (hx : 0 ≤ x) : trigTail k x ≤ taylorTerm k x := by
  induction k generalizing x with
  | zero => simpa [trigTail] using Real.cos_le_one x
  | succ k ih =>
    have hderiv (y : ℝ) := (hasDerivAt_taylorTerm k y).sub (hasDerivAt_trigTail k y)
    have hmono : MonotoneOn (taylorTerm (k + 1) - trigTail (k + 1)) (Set.Ici 0) := by
      refine monotoneOn_of_deriv_nonneg (convex_Ici 0) (fun y _ => (hderiv y).continuousAt.continuousWithinAt)
        (fun y _ => (hderiv y).differentiableAt.differentiableWithinAt) fun y hy => ?_
      rw [interior_Ici] at hy
      exact (hderiv y).deriv ▸ sub_nonneg.2 (ih (le_of_lt hy))
    have := hmono Set.self_mem_Ici hx hx
    simp only [Pi.sub_apply, taylorTerm_succ_at_zero, trigTail_succ_at_zero] at this
    linarith

/-! ### The partial sums -/

/-- The first `l + 1` terms of the same series, from the term of `x ^ k` on. -/
noncomputable def partialSum (x : ℝ) : (k l : Nat) → ℝ
  | k, 0 => taylorTerm k x
  | k, l + 1 => taylorTerm k x - partialSum x (k + 2) l

theorem trigTail_mem_uIcc (k l : Nat) {x : ℝ} (hx : 0 ≤ x) :
    trigTail k x ∈ Set.uIcc (partialSum x k l) (partialSum x k (l + 1)) := by
  induction l generalizing k with
  | zero =>
    have hnext := trigTail_le_taylorTerm (k + 2) hx
    rw [trigTail] at hnext
    exact Set.mem_uIcc.2 (.inr ⟨by simp only [partialSum]; linarith, trigTail_le_taylorTerm k hx⟩)
  | succ l ih =>
    have hinner := ih (k + 2)
    rw [trigTail, Set.mem_uIcc] at hinner
    rw [Set.mem_uIcc, partialSum, partialSum]
    rcases hinner with ⟨hlow, hhigh⟩ | ⟨hlow, hhigh⟩
    · exact .inr ⟨by linarith, by linarith⟩
    · exact .inl ⟨by linarith, by linarith⟩

theorem abs_partialSum_succ_sub (k l : Nat) {x : ℝ} (hx : 0 ≤ x) :
    |partialSum x k (l + 1) - partialSum x k l| = taylorTerm (k + 2 * (l + 1)) x := by
  induction l generalizing k with
  | zero => simp only [partialSum, sub_sub_cancel_left, abs_neg, abs_of_nonneg (taylorTerm_nonneg _ hx)]
  | succ l ih =>
    change |taylorTerm k x - partialSum x (k + 2) (l + 1) - (taylorTerm k x - partialSum x (k + 2) l)| = _
    rw [sub_sub_sub_cancel_left, abs_sub_comm, ih (k + 2), show k + 2 + 2 * (l + 1) = k + 2 * (l + 1 + 1) by ring]

/-! ### The model's nested series -/

theorem nestedTaylor_snd_pos (num : Nat) {den : Nat} (hden : 0 < den) (k l : Nat) : 0 < (nestedTaylor num den k l).2 := by
  induction l generalizing k with
  | zero => exact one_pos
  | succ l ih =>
    have := ih (k + 2)
    rw [nestedTaylor]
    positivity

theorem taylorTerm_mul_nestedTaylor (num : Nat) {den : Nat} (hden : 0 < den) (k l : Nat) :
    taylorTerm k (num / den) * ((nestedTaylor num den k l).1 / (nestedTaylor num den k l).2) =
      partialSum (num / den) k l := by
  induction l generalizing k with
  | zero => simp [nestedTaylor, partialSum]
  | succ l ih =>
    have hinner : ((nestedTaylor num den (k + 2) l).2 : ℝ) ≠ 0 := by
      exact_mod_cast (nestedTaylor_snd_pos num hden (k + 2) l).ne'
    have hd : (den : ℝ) ≠ 0 := by exact_mod_cast hden.ne'
    rw [partialSum, ← ih (k + 2), nestedTaylor, taylorTerm, taylorTerm, Nat.factorial_succ, Nat.factorial_succ,
      pow_add _ k 2]
    push_cast
    field_simp
    ring

/-- Settles O53: the series are the Taylor sums, which alternate around what they approach. -/
theorem partialSumsBracketSineAndCosine : Obligations.PartialSumsBracketSineAndCosine := by
  intro num den k hden x sinSum cosSum
  have hx : 0 ≤ x := by positivity
  have hsin (l : Nat) : sinSum l = partialSum x 1 l := by
    rw [← taylorTerm_mul_nestedTaylor num hden, taylorTerm_one, ← mul_div_assoc]
  have hcos (l : Nat) : cosSum l = partialSum x 0 l := by
    rw [← taylorTerm_mul_nestedTaylor num hden, taylorTerm_zero, one_mul]
  have hs : Real.sin x ∈ Set.uIcc (sinSum k) (sinSum (k + 1)) := by
    rw [hsin, hsin]
    exact trigTail_mem_uIcc 1 k hx
  have hc : Real.cos x ∈ Set.uIcc (cosSum k) (cosSum (k + 1)) := by
    rw [hcos, hcos]
    exact trigTail_mem_uIcc 0 k hx
  exact ⟨hs.1, hs.2, hc.1, hc.2⟩

end Sys2Proof.Machine
end

section
/-! PROOFS. `REF64.weights` (spec 41_batch_sequencer.md R119, R120): how near the angle is to the ideal one, how near the
weights are to its sine and cosine, and the angles at which they are exact. -/

namespace Sys2Proof.Machine

/-! ### Rounding a signed rational -/

theorem Datum.value_natAbs (z : Int) (d : Nat) : Datum.value (.fin (decide (z < 0)) z.natAbs d) = (z : Rat) / d := by
  have hsigned : Datum.signedNum (decide (z < 0)) z.natAbs = z := by
    rw [Datum.signedNum]
    split_ifs with h
    · have := of_decide_eq_true h
      omega
    · have := of_decide_eq_false (Bool.eq_false_of_not_eq_true h)
      omega
  rw [Datum.value_fin, hsigned]

theorem round64_denotes (z : Int) {d : Nat} (hd : 0 < d) (hlt : |(z : Rat) / d| < binary64.overflow) :
    ∃ w, (binary64.read (round64 z d).toNat).Denotes w ∧ binary64.Rounds ((z : Rat) / d) w := by
  rw [← Datum.value_natAbs] at hlt ⊢
  rw [round64, read_ofNat_round64]
  exact (Datum.denotes_fin _ _ hd).rounded (.inr rfl) hlt

theorem round64_of_near (z : Int) {d : Nat} (hd : 0 < d) {w : Weight} (hfinite : isFinite64 w = true)
    (hne : value64 w ≠ 0) (hnear : |(z : Rat) / d - value64 w| ≤ |value64 w| / 2 ^ 54) : round64 z d = w := by
  rw [← Datum.value_natAbs] at hnear
  rw [round64, FloatFormat.round_of_near (f := binary64) (by decide) w.isLt hd hfinite hne hnear, BitVec.ofNat_toNat,
    BitVec.setWidth_eq]

theorem value64_weightOne : value64 weightOne = 1 := by decide +kernel

theorem round64_of_near_one (z : Int) {d : Nat} (hd : 0 < d) (hnear : |(z : Rat) / d - 1| ≤ 1 / 2 ^ 54) :
    round64 z d = weightOne :=
  round64_of_near z hd (by decide +kernel) (by norm_num [value64_weightOne]) (by simpa [value64_weightOne] using hnear)

theorem FloatFormat.roundMag_zero {f : FloatFormat} (hfrac : 1 ≤ f.fracBits) {den : Nat} (hden : 0 < den) :
    f.roundMag 0 den = 0 :=
  FloatFormat.roundMag_of_near hfrac hden (by simp [FloatFormat.gap, FloatFormat.magValue])

theorem FloatFormat.rounded_zero {f : FloatFormat} (hf : f = binary32 ∨ f = binary64) (neg : Bool) {den : Nat}
    (hden : 0 < den) : f.rounded (.fin neg 0 den) = .fin neg 0 (2 ^ f.minExp) := by
  rw [FloatFormat.rounded, f.read_round, FloatFormat.roundMag_zero (one_le_fracBits hf) hden, Nat.min_zero]
  rcases hf with rfl | rfl <;> rfl

theorem round64_zero {d : Nat} (hd : 0 < d) : round64 0 d = weightZero := by
  rw [round64, Int.natAbs_zero, binary64.round_eq, FloatFormat.roundMag_zero (by decide) hd]
  rfl

/-- How close a binary64 rounding is, among the real numbers. -/
theorem FloatFormat.Rounds.close64_real {v w : Rat} (h : binary64.Rounds v w) :
    |(w : ℝ) - v| ≤ |(v : ℝ)| / 2 ^ 53 + 1 / 2 ^ 200 := by
  have : ((|w - v| : Rat) : ℝ) ≤ ((|v| / 2 ^ 53 + 1 / 2 ^ 200 : Rat) : ℝ) := Rat.cast_le.2 h.close64
  push_cast at this
  exact this

/-! ### Sine and cosine -/

theorem enclosedRounding_cases (shorter longer : Weight) (asLonger : Bool) :
    enclosedRounding shorter longer asLonger = shorter ∨ enclosedRounding shorter longer asLonger = longer := by
  rw [enclosedRounding]
  split_ifs
  · exact .inl rfl
  · exact .inr rfl
  · exact .inl rfl

/-- The sine's weight is the rounding of a sum of at least 40 levels. -/
theorem exists_sin64_eq (num den : Nat) : ∃ l, 40 ≤ l ∧
    sin64 num den = round64 (num * (nestedTaylor num den 1 l).1) (den * (nestedTaylor num den 1 l).2) := by
  rcases enclosedRounding_cases _ _ _ with h | h
  · exact ⟨_, Nat.le_add_right _ _, h⟩
  · exact ⟨_, Nat.le_add_right_of_le (Nat.le_add_right _ _), h⟩

theorem exists_cos64_eq (num den : Nat) : ∃ l, 40 ≤ l ∧
    cos64 num den = round64 (nestedTaylor num den 0 l).1 (nestedTaylor num den 0 l).2 := by
  rcases enclosedRounding_cases _ _ _ with h | h
  · exact ⟨_, Nat.le_add_right _ _, h⟩
  · exact ⟨_, Nat.le_add_right_of_le (Nat.le_add_right _ _), h⟩

theorem taylorTerm_le {x : ℝ} (hx : 0 ≤ x) (hx4 : x ≤ 4) {k : Nat} (hk : 82 ≤ k) : taylorTerm k x ≤ 1 / 2 ^ 70 := by
  obtain ⟨j, rfl⟩ := Nat.exists_eq_add_of_le hk
  have hfact : ((7).factorial * 8 ^ (75 + j) : ℝ) ≤ (82 + j).factorial := by
    have := Nat.factorial_mul_pow_le_factorial (m := 7) (n := 75 + j)
    rw [← Nat.add_assoc] at this
    exact_mod_cast this
  calc taylorTerm (82 + j) x ≤ 4 ^ (82 + j) / ((7).factorial * 8 ^ (75 + j)) := by
        rw [taylorTerm]
        gcongr
    _ = 4 ^ 82 / ((7).factorial * 8 ^ 75) * (1 / 2) ^ j := by
        rw [pow_add, pow_add, ← mul_assoc, mul_div_mul_comm, ← div_pow]
        norm_num
    _ ≤ 4 ^ 82 / ((7).factorial * 8 ^ 75) * 1 := by
        gcongr
        exact pow_le_one₀ (by norm_num) (by norm_num)
    _ ≤ 1 / 2 ^ 70 := by norm_num [Nat.factorial]

theorem abs_partialSum_sub_trigTail_le (k : Nat) {l : Nat} (hl : 40 ≤ l) {x : ℝ} (hx : 0 ≤ x) (hx4 : x ≤ 4) :
    |partialSum x k l - trigTail k x| ≤ 1 / 2 ^ 70 := by
  rw [abs_sub_comm]
  calc |trigTail k x - partialSum x k l| ≤ |partialSum x k (l + 1) - partialSum x k l| :=
        Set.abs_sub_left_of_mem_uIcc (trigTail_mem_uIcc k l hx)
    _ = taylorTerm (k + 2 * (l + 1)) x := abs_partialSum_succ_sub k l hx
    _ ≤ 1 / 2 ^ 70 := taylorTerm_le hx hx4 (by omega)

/-- The weight is the rounding of a number that is within `2^-70` of `t`. -/
def RoundsNear (w : Weight) (t : ℝ) : Prop :=
  ∃ (z : Int) (d : Nat), 0 < d ∧ w = round64 z d ∧ |(z : ℝ) / d - t| ≤ 1 / 2 ^ 70

theorem sin64_roundsNear (num : Nat) {den : Nat} (hden : 0 < den) (h4 : (num : ℝ) / den ≤ 4) :
    RoundsNear (sin64 num den) (Real.sin (num / den)) := by
  obtain ⟨l, hl, heq⟩ := exists_sin64_eq num den
  refine ⟨_, _, Nat.mul_pos hden (nestedTaylor_snd_pos num hden 1 l), heq, ?_⟩
  have := abs_partialSum_sub_trigTail_le 1 hl (by positivity) h4
  rw [← taylorTerm_mul_nestedTaylor num hden, taylorTerm_one, div_mul_div_comm] at this
  exact_mod_cast this

theorem cos64_roundsNear (num : Nat) {den : Nat} (hden : 0 < den) (h4 : (num : ℝ) / den ≤ 4) :
    RoundsNear (cos64 num den) (Real.cos (num / den)) := by
  obtain ⟨l, hl, heq⟩ := exists_cos64_eq num den
  refine ⟨_, _, nestedTaylor_snd_pos num hden 0 l, heq, ?_⟩
  have := abs_partialSum_sub_trigTail_le 0 hl (by positivity) h4
  rwa [← taylorTerm_mul_nestedTaylor num hden, taylorTerm_zero, one_mul] at this

theorem RoundsNear.denotes {w : Weight} {t : ℝ} (h : RoundsNear w t) (ht : |t| ≤ 1) :
    ∃ v : Rat, (binary64.read w.toNat).Denotes v ∧ |(v : ℝ) - t| ≤ 1 / 2 ^ 51 := by
  obtain ⟨z, d, hd, rfl, hnear⟩ := h
  have hle : |((z / d : Rat) : ℝ)| ≤ 2 := by
    have := abs_sub_abs_le_abs_sub ((z : ℝ) / d) t
    push_cast
    linarith
  have hle' : |(z : Rat) / d| ≤ 2 := by exact_mod_cast hle
  obtain ⟨v, hv, hround⟩ := round64_denotes z hd
    (hle'.trans_lt (by simpa using two_pow_lt_overflow64 (k := 2) (by norm_num) |>.trans' (by norm_num)))
  refine ⟨v, hv, ?_⟩
  have hclose := hround.close64_real
  have := abs_sub_le (v : ℝ) ((z / d : Rat) : ℝ) t
  push_cast at hle hclose this
  linarith

/-! ### The angle -/

/-- The value of `PI64`. -/
def pi64Value : Rat := 884279719003555 / 281474976710656

theorem pi64_denotes : pi64.Denotes pi64Value := by
  have h : pi64.value = pi64Value := by decide +kernel
  exact h ▸ (FloatFormat.denotes_read (f := binary64) (by decide +kernel)).1

theorem abs_pi64Value_sub_pi : |(pi64Value : ℝ) - Real.pi| ≤ 1 / 2 ^ 52 := by
  have hlow := Real.pi_gt_d20
  have hhigh := Real.pi_lt_d20
  rw [abs_le, pi64Value]
  push_cast
  constructor <;> norm_num at * <;> linarith

theorem pi64Value_mul_lt_overflow {o k : Nat} (hk : k ≤ 1022) (ho : o < 2 ^ k) :
    |pi64Value * o| < binary64.overflow := by
  have ho' : (o : Rat) < 2 ^ k := by exact_mod_cast ho
  have hpos : 0 ≤ pi64Value := by norm_num [pi64Value]
  calc |pi64Value * o| = pi64Value * o := abs_of_nonneg (by positivity)
    _ ≤ 7 / 2 * o := by
        gcongr
        norm_num [pi64Value]
    _ < 7 / 4 * 2 ^ (k + 1) := by rw [pow_succ]; linarith
    _ ≤ 7 / 4 * 2 ^ 1023 := by
        gcongr
        · norm_num
        · omega
    _ ≤ binary64.overflow := overflow64_ge

/-- The first rounding of the angle, once divided, is a few units of `2^-53` off. -/
theorem abs_div_sub_le {p : Rat} {o n : Nat} (hn : 1 ≤ n) (hon : o ≤ n) (hp : binary64.Rounds (pi64Value * o) p) :
    |(p : ℝ) / n - pi64Value * (o / n)| ≤ 5 / 2 ^ 53 := by
  have hn1 : (1 : ℝ) ≤ n := by exact_mod_cast hn
  have hratio : (o : ℝ) / n ≤ 1 := (div_le_one (by linarith)).2 (by exact_mod_cast hon)
  have hclose := hp.close64_real
  have hpos : (0 : ℝ) ≤ pi64Value := by norm_num [pi64Value]
  have hle : (pi64Value : ℝ) ≤ 4 := by norm_num [pi64Value]
  push_cast at hclose
  rw [abs_of_nonneg (show (0 : ℝ) ≤ pi64Value * o by positivity)] at hclose
  calc |(p : ℝ) / n - pi64Value * (o / n)| = |(p : ℝ) - pi64Value * o| / n := by
        rw [← mul_div_assoc, ← sub_div, abs_div, abs_of_nonneg (by linarith : (0 : ℝ) ≤ n)]
    _ ≤ (pi64Value * o / 2 ^ 53 + 1 / 2 ^ 200) / n := by gcongr
    _ = pi64Value * (o / n) / 2 ^ 53 + 1 / 2 ^ 200 / n := by ring
    _ ≤ 4 * 1 / 2 ^ 53 + 1 / 2 ^ 200 / 1 := by gcongr
    _ ≤ 5 / 2 ^ 53 := by norm_num

/-- The quotient before its rounding is near the ideal angle. -/
theorem abs_div_sub_ideal_le {p : Rat} {o n : Nat} (hn : 1 ≤ n) (hon : o ≤ n)
    (hp : binary64.Rounds (pi64Value * o) p) : |(p : ℝ) / n - Real.pi * o / n| ≤ 7 / 2 ^ 53 := by
  have hratio : (o : ℝ) / n ≤ 1 := (div_le_one (by exact_mod_cast hn)).2 (by exact_mod_cast hon)
  have hswap : |(pi64Value : ℝ) * (o / n) - Real.pi * o / n| ≤ 1 / 2 ^ 52 := by
    rw [mul_div_assoc, ← sub_mul, abs_mul, abs_of_nonneg (by positivity : (0 : ℝ) ≤ o / n)]
    calc |(pi64Value : ℝ) - Real.pi| * (o / n) ≤ 1 / 2 ^ 52 * 1 := by
          gcongr
          exact abs_pi64Value_sub_pi
      _ = 1 / 2 ^ 52 := mul_one _
  have := abs_div_sub_le hn hon hp
  have := abs_sub_le ((p : ℝ) / n) (pi64Value * (o / n)) (Real.pi * o / n)
  linarith

theorem ideal_angle_le {o n : Nat} (hn : 1 ≤ n) (hon : o ≤ n) : Real.pi * o / n ≤ 3.15 := by
  have hratio : (o : ℝ) / n ≤ 1 := (div_le_one (by exact_mod_cast hn)).2 (by exact_mod_cast hon)
  calc Real.pi * o / n = Real.pi * (o / n) := mul_div_assoc _ _ _
    _ ≤ 3.15 * 1 := by
        gcongr
        exact Real.pi_lt_d2.le
    _ = 3.15 := mul_one _

/-- R119's angle is near the ideal one for offsets within the block. -/
theorem exists_ref64Angle_eq {o n : Nat} (ho : |pi64Value * o| < binary64.overflow) (hn : 1 ≤ n) (hon : o ≤ n) :
    ∃ neg num den, ref64Angle o n = .fin neg num den ∧ 0 < den ∧
      |(num : ℝ) / den - Real.pi * o / n| ≤ 1 / 2 ^ 49 := by
  have hoffset : (Datum.fin false o 1).Denotes o := by simpa [Datum.value] using Datum.denotes_fin false o one_pos
  have hdivisor : (Datum.fin false 1 n).Denotes (1 / n) := by simpa [Datum.value] using Datum.denotes_fin false 1 hn
  obtain ⟨p, hp, hpr⟩ := (pi64_denotes.mul hoffset).rounded (.inr rfl) ho
  have hideal : |Real.pi * o / n| = Real.pi * o / n := abs_of_nonneg (by positivity)
  have hpn := abs_div_sub_ideal_le hn hon hpr
  have hsmall : |(p : ℝ) / n| ≤ 4 := by
    have := abs_sub_abs_le_abs_sub ((p : ℝ) / n) (Real.pi * o / n)
    have := ideal_angle_le hn hon
    rw [hideal] at *
    linarith
  have hsmall' : |p * (1 / n)| ≤ 2 ^ 2 := by
    rw [mul_one_div, show (2 : Rat) ^ 2 = 4 by norm_num]
    exact_mod_cast hsmall
  obtain ⟨a, ⟨neg, num, den, hangle, hden, rfl⟩, har⟩ :=
    (hp.mul hdivisor).rounded (.inr rfl) (hsmall'.trans_lt (two_pow_lt_overflow64 (by norm_num)))
  have habs : (num : ℝ) / den = |((Datum.value (.fin neg num den) : Rat) : ℝ)| := by
    rw [← Rat.cast_abs, Datum.abs_value_fin, Rat.cast_div, Rat.cast_natCast, Rat.cast_natCast]
  refine ⟨neg, num, den, hangle, hden, ?_⟩
  rw [habs, ← hideal]
  refine (abs_abs_sub_abs_le _ _).trans ?_
  have hclose := har.close64_real
  push_cast at hclose
  rw [mul_one_div] at hclose
  have := abs_sub_le ((Datum.value (.fin neg num den) : Rat) : ℝ) (p / n) (Real.pi * o / n)
  linarith

theorem ref64Weights_of_angle {o n num den : Nat} {neg : Bool} (hn : 1 ≤ n)
    (h : ref64Angle o n = .fin neg num den) : ref64Weights o n = (sin64 num den, cos64 num den) := by
  rw [ref64Weights, if_neg (Nat.ne_zero_of_lt hn), h]

/-- The weights round numbers near the sine and cosine of an angle near the ideal one. -/
theorem ref64Weights_roundsNear {o n : Nat} (ho : |pi64Value * o| < binary64.overflow) (hn : 1 ≤ n) (hon : o ≤ n) :
    ∃ x : ℝ, |x - Real.pi * o / n| ≤ 1 / 2 ^ 49 ∧ RoundsNear (ref64Weights o n).1 (Real.sin x) ∧
      RoundsNear (ref64Weights o n).2 (Real.cos x) := by
  obtain ⟨neg, num, den, hangle, hden, hnear⟩ := exists_ref64Angle_eq ho hn hon
  have h4 : (num : ℝ) / den ≤ 4 := by
    have := ideal_angle_le hn hon
    have := (abs_le.1 hnear).2
    linarith
  rw [ref64Weights_of_angle hn hangle]
  refine ⟨(num : ℝ) / den, hnear, ?_, ?_⟩ <;> dsimp only
  · exact sin64_roundsNear num hden h4
  · exact cos64_roundsNear num hden h4

/-! ### Angle zero -/

theorem nestedTaylor_zero (den k l : Nat) : (nestedTaylor 0 den k l).1 = (nestedTaylor 0 den k l).2 := by
  cases l <;> simp [nestedTaylor]

theorem sin64_zero {den : Nat} (hden : 0 < den) : sin64 0 den = weightZero := by
  obtain ⟨l, -, hsin⟩ := exists_sin64_eq 0 den
  rw [hsin, Nat.cast_zero, zero_mul, round64_zero (Nat.mul_pos hden (nestedTaylor_snd_pos 0 hden 1 l))]

theorem cos64_zero {den : Nat} (hden : 0 < den) : cos64 0 den = weightOne := by
  obtain ⟨l, -, hcos⟩ := exists_cos64_eq 0 den
  have hpos := nestedTaylor_snd_pos 0 hden 0 l
  rw [hcos, round64_of_near_one _ hpos]
  rw [nestedTaylor_zero, Int.cast_natCast, div_self (by exact_mod_cast hpos.ne')]
  norm_num

theorem exists_ref64Angle_zero {n : Nat} (hn : 1 ≤ n) : ∃ neg den, 0 < den ∧ ref64Angle 0 n = .fin neg 0 den := by
  obtain ⟨neg, num, den, hpi, hden, -⟩ := pi64_denotes
  have hunit := Nat.two_pow_pos binary64.minExp
  rw [ref64Angle, hpi, Datum.mul, Nat.mul_zero, Nat.mul_one, FloatFormat.rounded_zero (.inr rfl) _ hden, Datum.mul,
    Nat.zero_mul, FloatFormat.rounded_zero (.inr rfl) _ (Nat.mul_pos hunit hn)]
  exact ⟨_, _, hunit, rfl⟩

/-- Settles O55: the angle is 0, where every level of the series is 1. -/
theorem referenceNumericsHaveZeroAngle : Obligations.ReferenceNumericsHaveZeroAngle := by
  intro n hn
  obtain ⟨neg, den, hden, hangle⟩ := exists_ref64Angle_zero hn
  rw [numWeights, ref64Weights_of_angle hn hangle, sin64_zero hden, cos64_zero hden]

/-! ### The right angle -/

theorem lt_two_pow_of_two_mul_lt {h k m : Nat} (hm : m = k + 1) (hlt : 2 * h < 2 ^ m) : h < 2 ^ k := by
  rw [hm, Nat.pow_succ] at hlt
  omega

/-- Near the right angle the sine is 1 but for the square of the distance. -/
theorem abs_sin_sub_one_le {x : ℝ} (hx : |x - Real.pi / 2| ≤ 1 / 2 ^ 49) : |Real.sin x - 1| ≤ 1 / 2 ^ 98 := by
  have hcos := Real.one_sub_sq_div_two_le_cos (x := x - Real.pi / 2)
  have hsq : (x - Real.pi / 2) ^ 2 ≤ (1 / 2 ^ 49) ^ 2 := sq_le_sq' (abs_le.1 hx).1 (abs_le.1 hx).2
  rw [Real.cos_sub_pi_div_two] at hcos
  rw [abs_sub_comm, abs_of_nonneg (sub_nonneg.2 (Real.sin_le_one x))]
  norm_num at hsq ⊢
  linarith

/-- Settles O57: the angle is so near the right one that the sine rounds to 1, and the cosine is nearly 0. -/
theorem referenceNumericsHaveRightAngle : Obligations.ReferenceNumericsHaveRightAngle := by
  intro n hn h hh hnh
  subst hnh
  have hlt := pi64Value_mul_lt_overflow le_rfl (lt_two_pow_of_two_mul_lt (m := 1023) rfl hn)
  clear hn
  obtain ⟨x, hx, ⟨z, d, hd, heq, hz⟩, hcos⟩ := ref64Weights_roundsNear hlt (n := 2 * h) (by omega) (by omega)
  have hpos : (h : ℝ) ≠ 0 := by exact_mod_cast (Nat.ne_zero_of_lt hh)
  have hangle : Real.pi * h / (2 * h : Nat) = Real.pi / 2 := by
    push_cast
    field_simp
  rw [hangle] at hx
  refine ⟨heq.trans (round64_of_near_one z hd ?_), ?_⟩
  · have := abs_sin_sub_one_le hx
    have := abs_sub_le ((z : ℝ) / d) (Real.sin x) 1
    rw [← Rat.cast_le (K := ℝ)]
    push_cast
    linarith
  · obtain ⟨v, hv, hnear⟩ := hcos.denotes (Real.abs_cos_le_one x)
    have hc := Real.abs_cos_sub_cos_le x (Real.pi / 2)
    rw [Real.cos_pi_div_two] at hc
    refine ⟨hv.isFinite, ?_⟩
    rw [show value64 (numWeights .ref64 h (2 * h)).2 = v from hv.value_eq]
    have := abs_sub_abs_le_abs_sub (v : ℝ) (Real.cos x)
    rw [sub_zero] at hc
    rw [← Rat.cast_le (K := ℝ)]
    push_cast
    linarith

/-! ### The table (41_batch_sequencer.md R119) -/

/-- Settles O54: the model evaluates to the table. -/
theorem referenceWeightsOfTheTable : Obligations.ReferenceWeightsOfTheTable := by
  unfold Obligations.ReferenceWeightsOfTheTable
  decide +kernel

end Sys2Proof.Machine
end

section
/-! PROOFS. Ideal closeness of `REF64` (spec 41_batch_sequencer.md R120, NUM-P6): the errors of the weights, of the products, of
their sum and of the narrowing, one after the other. -/

namespace Sys2Proof.Machine

/-! ### The weights -/

/-- The weights of an offset within the block, and how far they are from the ideal ones. -/
theorem ref64Weights_near {o n : Nat} (ho : |pi64Value * o| < binary64.overflow) (hn : 1 ≤ n) (hon : o ≤ n) :
    ∃ a b : Rat, (binary64.read (ref64Weights o n).1.toNat).Denotes a ∧
      (binary64.read (ref64Weights o n).2.toNat).Denotes b ∧
      |(a : ℝ) - Real.sin (Real.pi * o / n)| ≤ 1 / 2 ^ 48 ∧ |(b : ℝ) - Real.cos (Real.pi * o / n)| ≤ 1 / 2 ^ 48 := by
  obtain ⟨x, hx, hsin, hcos⟩ := ref64Weights_roundsNear ho hn hon
  obtain ⟨a, ha, hnear⟩ := hsin.denotes (Real.abs_sin_le_one x)
  obtain ⟨b, hb, hnear'⟩ := hcos.denotes (Real.abs_cos_le_one x)
  refine ⟨a, b, ha, hb, ?_, ?_⟩
  · have := Real.abs_sin_sub_sin_le x (Real.pi * o / n)
    have := abs_sub_le (a : ℝ) (Real.sin x) (Real.sin (Real.pi * o / n))
    linarith
  · have := Real.abs_cos_sub_cos_le x (Real.pi * o / n)
    have := abs_sub_le (b : ℝ) (Real.cos x) (Real.cos (Real.pi * o / n))
    linarith

/-- A weight within `2^-48` of a sine or a cosine is at most 2. -/
theorem abs_weight_le_two {a : Rat} {t : ℝ} (ht : |t| ≤ 1) (ha : |(a : ℝ) - t| ≤ 1 / 2 ^ 48) : |a| ≤ 2 := by
  have := abs_sub_abs_le_abs_sub (a : ℝ) t
  rw [← Rat.cast_le (K := ℝ)]
  push_cast
  linarith

/-! ### The products, the sum, the narrowing -/

/-- A rounded product is near the ideal one. -/
theorem abs_product_sub_le {a u p : Rat} {t : ℝ} (ht : |t| ≤ 1) (ha : |(a : ℝ) - t| ≤ 1 / 2 ^ 48)
    (hp : binary64.Rounds (a * u) p) : |(p : ℝ) - t * u| ≤ |(u : ℝ)| / 2 ^ 47 + 1 / 2 ^ 200 := by
  have hclose := hp.close64_real
  have ha2 : |(a : ℝ)| ≤ 2 := by exact_mod_cast (Rat.cast_le (K := ℝ)).2 (abs_weight_le_two ht ha)
  push_cast at hclose
  rw [abs_mul] at hclose
  have hweight : |(a : ℝ) * u - t * u| ≤ 1 / 2 ^ 48 * |(u : ℝ)| := by
    rw [← sub_mul, abs_mul]
    gcongr
  have hscale : |(a : ℝ)| * |(u : ℝ)| ≤ 2 * |(u : ℝ)| := by gcongr
  have := abs_sub_le (p : ℝ) (a * u) (t * u)
  have := abs_nonneg (u : ℝ)
  linarith

/-- The rounded sum of the rounded products is near the ideal sample, where that is not far below the normal range. -/
theorem abs_sum_sub_le {p0 p1 s : Rat} {i0 i1 u0 u1 : ℝ} (h0 : |(p0 : ℝ) - i0| ≤ u0 / 2 ^ 47 + 1 / 2 ^ 200)
    (h1 : |(p1 : ℝ) - i1| ≤ u1 / 2 ^ 47 + 1 / 2 ^ 200) (hs : binary64.Rounds (p0 + p1) s)
    (hle : |i0 + i1| ≤ u0 + u1) (hnormal : 1 / 2 ^ 126 ≤ u0 + u1) : |(s : ℝ) - (i0 + i1)| ≤ (u0 + u1) / 2 ^ 46 := by
  have hclose := hs.close64_real
  push_cast at hclose
  have hproducts : |(p0 : ℝ) + p1 - (i0 + i1)| ≤ (u0 + u1) / 2 ^ 47 + 2 / 2 ^ 200 := by
    rw [add_sub_add_comm]
    have := abs_add_le ((p0 : ℝ) - i0) (p1 - i1)
    linarith
  have := abs_sub_abs_le_abs_sub ((p0 : ℝ) + p1) (i0 + i1)
  have := abs_sub_le (s : ℝ) (p0 + p1) (i0 + i1)
  linarith

/-- The narrowing of a sum near the ideal sample is near it. -/
theorem abs_sample_sub_le {s y : Rat} {ideal u : ℝ} (hs : |(s : ℝ) - ideal| ≤ u / 2 ^ 46) (hy : binary32.Rounds s y)
    (hle : |ideal| ≤ u) (hnormal : 1 / 2 ^ 126 ≤ u) : |(y : ℝ) - ideal| ≤ 1 / 2 ^ 23 * u := by
  have hround : |(y : ℝ) - s| ≤ max (|(s : ℝ)| / 2 ^ 24) (1 / 2 ^ 150) := by
    have hmin : binary32.minExp + 1 = 150 := rfl
    have hfrac : binary32.fracBits + 1 = 24 := rfl
    have hclose := (Rat.cast_le (K := ℝ)).2 hy.close
    rw [hmin, hfrac] at hclose
    push_cast at hclose
    exact hclose
  have := abs_sub_abs_le_abs_sub (s : ℝ) ideal
  have := abs_sub_le (y : ℝ) s ideal
  have hmax : max (|(s : ℝ)| / 2 ^ 24) (1 / 2 ^ 150) ≤ (u + u / 2 ^ 46) / 2 ^ 24 :=
    max_le (by linarith) (by linarith)
  linarith

/-- A sum near an ideal sample within the normal range does not overflow when it is narrowed. -/
theorem abs_lt_overflow_of_near {s : Rat} {ideal u : ℝ} (hs : |(s : ℝ) - ideal| ≤ u / 2 ^ 46)
    (hideal : |ideal| ≤ (2 : ℝ) ^ 128 - 2 ^ 104) (hu : u ≤ 2 ^ 129) : |s| < binary32.overflow := by
  have := abs_sub_abs_le_abs_sub (s : ℝ) ideal
  rw [overflow32_eq, ← Rat.cast_lt (K := ℝ)]
  push_cast
  linarith

theorem abs_value32_lt {x : F32} (h : isFinite32 x = true) : |(value32 x : ℝ)| < 2 ^ 128 := by
  exact_mod_cast (Rat.cast_lt (K := ℝ)).2 (abs_lt_of_number32 (denotes_of_isFinite32 h).2)

theorem abs_ideal_le (x0 x1 t : ℝ) : |Real.sin t * x0 + Real.cos t * x1| ≤ |x0| + |x1| := by
  refine (abs_add_le _ _).trans ?_
  rw [abs_mul, abs_mul]
  exact add_le_add (mul_le_of_le_one_left (abs_nonneg _) (Real.abs_sin_le_one t))
    (mul_le_of_le_one_left (abs_nonneg _) (Real.abs_cos_le_one t))

/-- Settles O59: weights, products, sum and narrowing stay within their errors. -/
theorem referenceNumericsAreIdeallyClose : Obligations.ReferenceNumericsAreIdeallyClose := by
  intro n hn
  refine ⟨by positivity, fun o x0 x1 ideal ho hx0 hx1 hideal hlow hhigh => ?_⟩
  have hlt := pi64Value_mul_lt_overflow le_rfl (ho.trans hn)
  clear hn
  obtain ⟨a, b, ha, hb, hsin, hcos⟩ := ref64Weights_near hlt (Nat.one_le_of_lt ho) ho.le
  have hs1 := Real.abs_sin_le_one (Real.pi * o / n)
  have hc1 := Real.abs_cos_le_one (Real.pi * o / n)
  obtain ⟨p0, p1, s, hp0, hp1, hs, hsum⟩ :=
    ref64Sum_denotes ha hb (abs_weight_le_two hs1 hsin) (abs_weight_le_two hc1 hcos) hx0 hx1
  have hle := abs_ideal_le (value32 x0) (value32 x1) (Real.pi * o / n)
  have hnear := abs_sum_sub_le (abs_product_sub_le hs1 hsin hp0) (abs_product_sub_le hc1 hcos hp1) hs hle
  rw [← hideal] at hle hnear
  have hnormal : 1 / 2 ^ 126 ≤ |(value32 x0 : ℝ)| + |(value32 x1 : ℝ)| := by
    rw [show (1 : ℝ) / 2 ^ 126 = 2 ^ (-126 : ℤ) by norm_num]
    exact hlow.trans hle
  have hbound : |(value32 x0 : ℝ)| + |(value32 x1 : ℝ)| ≤ 2 ^ 129 := by
    have := abs_value32_lt hx0
    have := abs_value32_lt hx1
    linarith
  obtain ⟨y, hy, hround⟩ := ref64Mix_denotes hsum (abs_lt_overflow_of_near (hnear hnormal) hhigh hbound)
  refine ⟨hy.isFinite, ?_⟩
  rw [show value32 (numMix .ref64 (numWeights .ref64 o n).1 x0 (numWeights .ref64 o n).2 x1) = y from hy.value_eq]
  exact abs_sample_sub_le (hnear hnormal) hround hle hnormal

end Sys2Proof.Machine
end

section
/-! PROOFS. The reseed tests `RS0` and `RS1` (spec 42_reseed.md): what they do where `PH` selects them, that they bring both
offsets below `M` (R145), and how often a cursor reseeds: both after a short period (R150), none where `M > N` (R151). -/

namespace Sys2Proof.Machine

/-! ### One operation each (42_reseed.md R141, R143) -/

/-- The loop decision in one equation: the phase it goes to, and `Done` where the command ends. -/
theorem loopDecision_eq (u : State) :
    loopDecision u = { u with
      ph := if u.rem = 0 then phIdle else phBset
      hist := u.hist ++ (if u.rem = 0 then [.done] else []) } := by
  rw [loopDecision]
  split_ifs
  · rfl
  · rw [List.append_nil]

theorem afterReseed_hist (c : CursorId) (s : State) : (afterReseed c s).hist = s.hist ++ [.drawn c s.nextDraw] := by
  simp [afterReseed, afterDraw]

/-- Settles O21, by the equation of `RS0`. -/
theorem rsZeroReseedsCursorZero : Obligations.RsZeroReseedsCursorZero := by
  intro s hp
  rw [exec, execRs0_eq hp]
  refine ⟨fun hoff hdraw => ?_, fun hlt => if_neg hlt.not_ge⟩
  rw [if_pos hoff, if_pos hdraw]
  rfl

/-- Settles O22, by the equations of `RS1` and of its loop decision. -/
theorem rsOneReseedsCursorOneAndDecides : Obligations.RsOneReseedsCursorOneAndDecides := by
  intro s hp
  rw [exec, execRs1_eq hp]
  refine ⟨fun hoff hdraw => ?_, fun hlt => ?_⟩
  · rw [if_pos hoff, if_pos hdraw, loopDecision_eq, afterReseed_hist, List.append_assoc]
    rfl
  · rw [if_neg hlt.not_ge, loopDecision_eq]

/-! ### What the tests guarantee (42_reseed.md R145) -/

/-- `RS0` is the boundary test of cursor 0, and goes on to `RS1`. -/
theorem execRs0_tested {s t : State} (hp : s.ph = phRs0) (h : execRs0 s = .next t) :
    ∃ u, Tested .c0 s u ∧ t = { u with ph := phRs1 } := by
  rw [execRs0, if_pos hp] at h
  split at h
  next u hu =>
    cases h
    exact ⟨u, (reseed_eq_ok_iff ..).1 hu, rfl⟩
  next => cases h

/-- `RS1` is the boundary test of cursor 1, and then the loop decision. -/
theorem execRs1_tested {s t : State} (hp : s.ph = phRs1) (h : execRs1 s = .next t) :
    ∃ u, Tested .c1 s u ∧ t = loopDecision u := by
  rw [execRs1, if_pos hp] at h
  split at h
  next u hu =>
    cases h
    exact ⟨u, (reseed_eq_ok_iff ..).1 hu, rfl⟩
  next => cases h

/-- Settles O40: each test brings its own offset below `M`, and that of cursor 1 leaves cursor 0 alone. -/
theorem offsetsAreBelowMAfterBothTests : Obligations.OffsetsAreBelowMAfterBothTests := by
  intro s u t hm hp hu ht
  obtain ⟨v, hv, rfl⟩ := execRs0_tested hp hu
  obtain ⟨w, hw, rfl⟩ := execRs1_tested rfl ht
  obtain ⟨hcfg, -⟩ := hv.frame
  obtain ⟨-, ho0⟩ := hw.cursor0
  have h0 : w.o0 < s.cfg.m := ho0 ▸ hv.off_lt hm
  have h1 : w.o1 < s.cfg.m := hcfg ▸ hw.off_lt (hcfg.symm ▸ hm)
  rw [loopDecision_eq]
  exact ⟨h0, h1⟩

/-! ### A short period (42_reseed.md R150) -/

/-- A count that ends within both blocks is one batch. -/
theorem batchLength_bigStart {s : State} {count : Nat} (h0 : s.o0 + count ≤ s.cfg.n) (h1 : s.o1 + count ≤ s.cfg.n) :
    batchLength (bigStart count s) = count := by
  simp only [batchLength, State.bigStart_rem, State.bigStart_cfg, State.bigStart_o0, State.bigStart_o1]
  omega

/-- A FILL of at least `M` samples that ends within both blocks is one batch, after which both cursors reseed. -/
theorem bigFill_reseeds_both {s : State} {count : Nat} (inv : Inv s) (hd : DrawsInRange s) (hm : s.cfg.m ≤ count)
    (h0 : s.o0 + count ≤ s.cfg.n) (h1 : s.o1 + count ≤ s.cfg.n) :
    bigFill 1 count s =
      some (.ok (fillDone (afterReseed .c1 (afterReseed .c0 (afterAdvance (bigStart count s)))))) := by
  obtain ⟨hm1, -⟩ := inv.config
  have hk := batchLength_bigStart h0 h1
  have ready := inv.batchReady_bigStart (by omega) (by omega) count
  have hbatch := ready.bigBatch_reseeds_both hd
    (hk.symm ▸ hm.trans (Nat.le_add_left ..)) (hk.symm ▸ hm.trans (Nat.le_add_left ..))
  rw [bigFill, bigLoop_of_bigBatch 0 (hm1.trans hm) hbatch]
  refine bigLoop_of_rem_zero 0 ?_
  simp [afterReseed, afterDraw, afterAdvance, hk, afterSamples]

/-- Settles O49: from an offset below `M` a count of at most `N - M + 1` ends within the block, so the one batch takes
both cursors past `M`. -/
theorem shortPeriodIsOneBatchEndingAtZero : Obligations.ShortPeriodIsOneBatchEndingAtZero := by
  intro s count inv hd h0 h1 hm hn
  obtain ⟨-, hmn⟩ := inv.config
  have hfit0 : s.o0 + count ≤ s.cfg.n := by omega
  have hfit1 : s.o1 + count ≤ s.cfg.n := by omega
  refine ⟨_, bigFill_reseeds_both inv hd hm hfit0 hfit1, ?_, rfl, rfl⟩
  simp [afterReseed, afterDraw, afterAdvance, afterSamples, batchLength_bigStart hfit0 hfit1]

/-! ### No reseed where `M > N` (42_reseed.md R151, 70_reset_and_hazards.md R212) -/

/-- Below `M`, `RS0` writes the phase alone, whatever the phase. -/
theorem exec_rs0_of_lt {s t : State} (hlt : s.o0 < s.cfg.m) (h : exec .rs0 s = .next t) : t = { s with ph := t.ph } := by
  by_cases hp : s.ph = phRs0
  · rw [(rsZeroReseedsCursorZero s hp).2 hlt] at h
    cases h
    rfl
  · rw [eq_of_exec_of_ph_ne rfl hp h]

/-- Below `M`, `RS1` makes the loop decision alone, whatever the phase. -/
theorem exec_rs1_of_lt {s t : State} (hlt : s.o1 < s.cfg.m) (h : exec .rs1 s = .next t) :
    t = { s with ph := t.ph, hist := t.hist } := by
  by_cases hp : s.ph = phRs1
  · rw [(rsOneReseedsCursorOneAndDecides s hp).2 hlt] at h
    cases h
    rfl
  · rw [eq_of_exec_of_ph_ne rfl hp h]

/-- With cursor 0 at the end of its block there is nothing left for a batch. -/
theorem batchLength_eq_zero {s : State} (h : s.o0 = s.cfg.n) : batchLength s = 0 := by
  simp [batchLength, h]

/-- Settles O50: offsets up to `N` are below `M`, so both tests keep the cursors; and a batch of length 0 delivers nothing
and advances nothing. -/
theorem oversizedPoolCountNeverReseedsAndHangs : Obligations.OversizedPoolCountNeverReseedsAndHangs := by
  refine ⟨fun s t hmn h0 h1 h => ?_, fun s hmn hp h0 h1 hrem => ?_⟩
  · rcases h with h | h
    · rw [exec_rs0_of_lt (h0.trans_lt hmn) h]
      exact ⟨rfl, rfl, rfl, rfl, rfl, rfl⟩
    · rw [exec_rs1_of_lt (h1.trans_lt hmn) h]
      exact ⟨rfl, rfl, rfl, rfl, rfl, rfl⟩
  · have hk := batchLength_eq_zero h0
    have hbset := execBset_eq hp
    rw [hk] at hbset
    refine ⟨_, _, _, _, _, hbset, (mixDeliversOneSampleOrLeavesTheBatch _ rfl).2 le_rfl,
      advAdvancesBothCursors _ rfl, (rsZeroReseedsCursorZero _ rfl).2 (h0.le.trans_lt hmn),
      (rsOneReseedsCursorOneAndDecides _ rfl).2 (h1.trans_lt hmn), ?_⟩
    simp [hp, Nat.one_le_iff_ne_zero.1 hrem]

end Sys2Proof.Machine
end

section
/-! PROOFS. The refusals and the faults (spec 60_exceptions.md R181, R182): what stops a step, reason by reason, and that
nothing else does. -/

namespace Sys2Proof.Machine

/-! ### What stops a step -/

theorem Config.wf_iff (c : Config) : c.wf = true ↔ 1 ≤ c.m ∧ c.m ≤ c.n := by simp [Config.wf]

/-- A reserved word is what an idle block meets on its port (30_encoding.md R84). -/
theorem select_eq_reserved_iff (s : State) (cw : CmdWord) :
    select s = .reserved cw ↔ s.ph = phIdle ∧ s.port = some cw ∧ opField cw ≠ 0x1#4 := by
  by_cases hp : s.ph = phIdle
  · rcases select_idle hp with ⟨hport, hs⟩ | ⟨w, hport, hop, hs⟩ | ⟨w, hport, hop, hs⟩ <;> rw [hs, hport]
    · simp
    · simpa [hp] using fun h : w = cw => h ▸ hop
    · simpa [hp] using fun h : w = cw => h ▸ hop
  · cases hdec : decode (.uop s.ph) <;> simp [select, hp, hdec, apply_ite (· = Selected.reserved cw)]

/-- A phase code that is none is one of 6 and 7 (10_state.md R31). -/
theorem select_eq_noPhase_iff (s : State) (ph : PhaseCode) :
    select s = .noPhase ph ↔ 6 ≤ s.ph.toNat ∧ ph = s.ph := by
  rcases Nat.lt_or_ge 5 s.ph.toNat with hp | hp
  · simp [select_noPhase hp, Nat.succ_le_of_lt hp, eq_comm]
  · rcases select_of_phase_le hp with ⟨why, hs⟩ | ⟨i, hs⟩ | ⟨cw, -, -, hs⟩ <;> simp [hs] <;> omega

/-- No operation that is selected refuses: a refusal comes from the configuration or the decoder. -/
theorem exec_ne_refused {s : State} {i : Instr} (hs : select s = .run i) (r : Refusal) : exec i s ≠ .refused r := by
  rcases select_run_cases hs with
    ⟨hp, count, rfl⟩ | ⟨hp, rfl⟩ | ⟨hp, -, rfl⟩ | ⟨hp, rfl⟩ | ⟨hp, rfl⟩ | ⟨hp, rfl⟩ <;> rw [exec]
  · rw [execFill_eq hp]; exact nofun
  · rw [execBset_eq hp]; exact nofun
  · rcases execMix_cases hp with ⟨-, he⟩ | ⟨-, w, ws, -, he⟩ | ⟨-, -, -, he⟩ | ⟨-, -, j, k, he⟩ <;>
      rw [he] <;> exact nofun
  · rw [execAdv_eq hp]; exact nofun
  · rw [execRs0_eq hp]; split_ifs <;> exact nofun
  · rw [execRs1_eq hp]; split_ifs <;> exact nofun

theorem step_eq_refused_iff (s : State) (r : Refusal) :
    step s = .refused r ↔
      (s.cfg.wf = false ∧ r = .illFormedConfig s.cfg.m s.cfg.n) ∨
        (s.cfg.wf = true ∧ s.rst = false ∧ ∃ cw, select s = .reserved cw ∧ r = .reservedCommand cw) := by
  cases hw : s.cfg.wf with
  | false => simp [step_of_not_wf hw, eq_comm (b := r)]
  | true =>
    rw [step_eq hw]
    cases hr : s.rst with
    | true => simp
    | false =>
      cases hs : select s with
      | run i => simp [exec_ne_refused hs]
      | held why => simp [held]
      | reserved cw => simp [eq_comm]
      | noPhase ph => simp

/-- A fault is that of the phase code or of the operation that runs. -/
theorem step_eq_fault_iff (s : State) (f : Fault) :
    step s = .fault f ↔
      s.cfg.wf = true ∧ s.rst = false ∧
        ((∃ ph, select s = .noPhase ph ∧ f = .phase ph) ∨ ∃ i, select s = .run i ∧ exec i s = .fault f) := by
  cases hw : s.cfg.wf with
  | false => simp [step_of_not_wf hw]
  | true =>
    rw [step_eq hw]
    cases hr : s.rst with
    | true => simp
    | false =>
      cases hs : select s with
      | run i => simp
      | held why => simp [held]
      | reserved cw => simp
      | noPhase ph => simp [eq_comm]

/-- Settles O9: the step refuses an ill-formed configuration and a reserved word, and no operation refuses. -/
theorem stepRefusesExactlyAsTheRuleSays : Obligations.StepRefusesExactlyAsTheRuleSays := by
  intro s r
  rw [step_eq_refused_iff, ← Config.wf_iff, Bool.not_eq_true]
  simp only [select_eq_reserved_iff, and_assoc, exists_and_left]

/-! ### The faults of the operations -/

/-- The pair of the next sample is taken: the host is not waited for at a `MIX` that has one (20_memory.md R64). -/
theorem State.pairTaken_iff {s : State} (hp : s.ph = phMix) (hj : s.j < s.kb) :
    s.pairNotTaken = false ↔ s.waits = [] ∨ ∃ ws, s.waits = 0 :: ws := by
  rw [State.pairNotTaken]
  rcases s.waits with _ | ⟨_ | w, ws⟩ <;> simp [hp, hj]

/-- The pool read at which the next sample faults, cursor 0's first (20_memory.md R53, R77). -/
def SampleFault (s : State) (f : Fault) : Prop :=
  (¬(s.i0 < s.cfg.m ∧ s.o0 + s.j < s.cfg.n) ∧ f = .poolIndex s.i0 (s.o0 + s.j)) ∨
    ((s.i0 < s.cfg.m ∧ s.o0 + s.j < s.cfg.n) ∧ ¬(s.i1 < s.cfg.m ∧ s.o1 + s.j < s.cfg.n) ∧
      f = .poolIndex s.i1 (s.o1 + s.j))

theorem execMix_eq_fault_iff {s : State} (hp : s.ph = phMix) (ht : s.pairNotTaken = false) (f : Fault) :
    execMix s = .fault f ↔ s.j < s.kb ∧ SampleFault s f := by
  rw [execMix_eq hp, if_neg (by simp [ht])]
  by_cases hj : s.j < s.kb
  · rw [if_pos hj, SampleFault]
    split_ifs with h0 h1
    · simp [h0, h1]
    · simp [hj, h0, h1, eq_comm (b := f)]
    · simp [hj, h0, eq_comm (b := f)]
  · simp [hj]

/-- The reseed test of cursor `c` draws, and the source answers outside its range (42_reseed.md R140, R146). -/
def DrawFault (c : CursorId) (s : State) (f : Fault) : Prop :=
  s.cfg.m ≤ s.off c ∧ s.cfg.m ≤ s.nextDraw ∧ f = .drawRange s.nextDraw

theorem reseed_eq_error_iff (c : CursorId) (s : State) (f : Fault) : reseed c s = .error f ↔ DrawFault c s f := by
  rw [reseed_eq, DrawFault, ← not_lt (a := s.nextDraw)]
  by_cases hoff : s.cfg.m ≤ s.off c
  · by_cases hdraw : s.nextDraw < s.cfg.m <;> simp [hoff, hdraw, eq_comm (b := f)]
  · simp [hoff]

theorem execRs0_eq_fault_iff {s : State} (hp : s.ph = phRs0) (f : Fault) :
    execRs0 s = .fault f ↔ DrawFault .c0 s f := by
  rw [execRs0, if_pos hp, ← reseed_eq_error_iff]
  cases reseed .c0 s <;> simp

theorem execRs1_eq_fault_iff {s : State} (hp : s.ph = phRs1) (f : Fault) :
    execRs1 s = .fault f ↔ DrawFault .c1 s f := by
  rw [execRs1, if_pos hp, ← reseed_eq_error_iff]
  cases reseed .c1 s <;> simp

/-- The operation that runs faults only as `MIX` at a pool read or as a reseed test at its draw (60_exceptions.md R181). -/
theorem run_faults_iff (s : State) (f : Fault) :
    (∃ i, select s = .run i ∧ exec i s = .fault f) ↔
      (s.ph = phMix ∧ s.j < s.kb ∧ (s.waits = [] ∨ ∃ ws, s.waits = 0 :: ws) ∧ SampleFault s f) ∨
        (s.ph = phRs0 ∧ DrawFault .c0 s f) ∨ (s.ph = phRs1 ∧ DrawFault .c1 s f) := by
  constructor
  · rintro ⟨i, hs, he⟩
    rcases select_run_cases hs with
      ⟨hp, count, rfl⟩ | ⟨hp, rfl⟩ | ⟨hp, ht, rfl⟩ | ⟨hp, rfl⟩ | ⟨hp, rfl⟩ | ⟨hp, rfl⟩ <;> rw [exec] at he
    · rw [execFill_eq hp] at he; cases he
    · rw [execBset_eq hp] at he; cases he
    · obtain ⟨hj, hread⟩ := (execMix_eq_fault_iff hp ht f).1 he
      exact .inl ⟨hp, hj, (State.pairTaken_iff hp hj).1 ht, hread⟩
    · rw [execAdv_eq hp] at he; cases he
    · exact .inr (.inl ⟨hp, (execRs0_eq_fault_iff hp f).1 he⟩)
    · exact .inr (.inr ⟨hp, (execRs1_eq_fault_iff hp f).1 he⟩)
  · rintro (⟨hp, hj, hwaits, hread⟩ | ⟨hp, hdraw⟩ | ⟨hp, hdraw⟩)
    · have ht := (State.pairTaken_iff hp hj).2 hwaits
      exact ⟨.mix, by simp [select_mix hp, ht], (execMix_eq_fault_iff hp ht f).2 ⟨hj, hread⟩⟩
    · exact ⟨.rs0, select_rs0 hp, (execRs0_eq_fault_iff hp f).2 hdraw⟩
    · exact ⟨.rs1, select_rs1 hp, (execRs1_eq_fault_iff hp f).2 hdraw⟩

/-- Settles O10: a fault is a phase code that is none, or that of the operation that runs. -/
theorem stepFaultsExactlyAsTheRuleSays : Obligations.StepFaultsExactlyAsTheRuleSays := by
  intro s f
  rw [step_eq_fault_iff, run_faults_iff]
  simp only [select_eq_noPhase_iff, and_assoc, exists_and_left, exists_eq_left, SampleFault, DrawFault,
    State.off_c0, State.off_c1]

end Sys2Proof.Machine
end

section
/-! PROOFS. How many steps a FILL takes (spec 70_reset_and_hazards.md R221), from the number of its batches, and reset in
any state (R202). -/

namespace Sys2Proof.Machine

/-! ### The number of batches -/

/-- The `while` loop of 40_fill_command.md R103 from `s` runs exactly `b` batches and completes in `u`. -/
inductive TakesBatches : (b : Nat) → (s u : State) → Prop
  | done {s : State} (hrem : s.rem = 0) : TakesBatches 0 s (fillDone s)
  | batch {b : Nat} {s v u : State} (hrem : 1 ≤ s.rem) (hv : bigBatch s = .ok v) (hu : TakesBatches b v u) :
      TakesBatches (b + 1) s u

theorem TakesBatches.bigLoop_eq {b : Nat} {s u : State} (h : TakesBatches b s u) : bigLoop b s = some (.ok u) := by
  induction h with
  | done hrem => exact bigLoop_of_rem_zero 0 hrem
  | batch hrem hv _ ih => rw [bigLoop_of_bigBatch _ hrem hv, ih]

/-- The number of batches is the least bound under which the loop completes. -/
theorem TakesBatches.bigLoop_eq_none {b b' : Nat} {s u : State} (h : TakesBatches b s u) (hlt : b' < b) :
    bigLoop b' s = none := by
  induction h generalizing b' with
  | done => exact absurd hlt (Nat.not_lt_zero b')
  | batch hrem hv _ ih =>
    cases b' with
    | zero => exact if_neg (Nat.one_le_iff_ne_zero.1 hrem)
    | succ b' => rw [bigLoop_of_bigBatch b' hrem hv, ih (Nat.lt_of_succ_lt_succ hlt)]

theorem exists_takesBatches {n : Nat} {s u : State} (h : bigLoop n s = some (.ok u)) :
    ∃ b ≤ n, TakesBatches b s u := by
  induction n generalizing s with
  | zero =>
    rw [bigLoop] at h
    split_ifs at h with hzero
    cases h
    exact ⟨0, le_rfl, .done hzero⟩
  | succ n ih =>
    rw [bigLoop] at h
    split_ifs at h with hzero
    · cases h
      exact ⟨0, Nat.zero_le _, .done hzero⟩
    · cases hv : bigBatch s with
      | error f =>
        rw [hv] at h
        cases h
      | ok v =>
        rw [hv] at h
        obtain ⟨b, hb, hu⟩ := ih h
        exact ⟨b + 1, Nat.succ_le_succ hb, .batch (Nat.one_le_iff_ne_zero.2 hzero) hv hu⟩

/-! ### The number of steps (70_reset_and_hazards.md R221) -/

/-- From the loop decision on, each of `b` batches takes five steps besides those of its samples. -/
theorem TakesBatches.core_run {b : Nat} {s u : State} {c : Control} (h : TakesBatches b s u) (ready : BatchReady s)
    (hwaits : c.waits = []) :
    ∃ c', c'.ph = phIdle ∧ c'.offers = c.offers ∧
      Sys2Proof.core.run (s.rem + 5 * b) (loopDecision (s.withControl c)) = .next (u.withControl c') := by
  induction h generalizing c with
  | done hrem => exact ⟨{ c with ph := phIdle }, rfl, rfl, by rw [loopDecision_withControl, if_pos hrem, hrem]; rfl⟩
  | @batch b s v u hrem hv _ ih =>
    have after := ready.afterBatch hv
    have hbatch := core_run_batch (c := { c with ph := phBset }) ready rfl
    obtain ⟨c', hidle, hoffers, hrun⟩ :=
      ih (c := { Control.inBatch { c with ph := phBset } s (batchLength s) with ph := phRs1 })
        after.ready (by simp [Control.inBatch, hwaits])
    refine ⟨c', hidle, hoffers, ?_⟩
    have hsteps : s.rem + 5 * (b + 1) = batchLength s + (c.waits.take (batchLength s)).sum + 5 + (v.rem + 5 * b) := by
      have hle := (batchLength_le s).1
      rw [after.rem, hwaits, List.take_nil, List.sum_nil]
      omega
    rw [hv] at hbatch
    rw [loopDecision_withControl, if_neg (Nat.one_le_iff_ne_zero.1 hrem), hsteps, core_run_add _ hbatch, hrun]

/-- A command that is taken stands before the loop decision, whatever its count. -/
theorem step_fill_loopDecision {s : State} {cw : CmdWord} {count : Nat} (hw : s.cfg.wf = true) (hr : s.rst = false)
    (hp : s.ph = phIdle) (hport : s.port = some cw) (hdec : decode (.cmd cw) = .ok (.fill count)) :
    step s = .next (loopDecision ((bigStart count s).withControl s.acceptedControl)) := by
  rw [loopDecision_withControl]
  rcases Nat.eq_zero_or_pos count with rfl | hpos
  · exact step_fill_zero hw hr hp hport hdec
  · rw [if_neg (show (bigStart count s).rem ≠ 0 from hpos.ne')]
    exact step_fill hw hr hp hport hdec hpos

/-- Settles O47: the command is taken in one step, and its batches are those of the big-step loop. -/
theorem fillTakesItsNumberOfSteps : Obligations.FillTakesItsNumberOfSteps := by
  intro s cw rest count inv hd hp hr hwaits hoffers hdec
  obtain ⟨-, h0, h1⟩ := inv.idle hp
  obtain ⟨u, hu, -, hlen, -⟩ := bigFill_completes inv hd hp count
  obtain ⟨b, hb, htakes⟩ := exists_takesBatches hu
  obtain ⟨c, hidle, hrest, hrun⟩ :=
    htakes.core_run (c := s.acceptedControl) (inv.batchReady_bigStart h0 h1 count) hwaits
  have hstep := step_fill_loopDecision inv.wf hr hp (State.port_of_offers hoffers) hdec
  have htaken : s.acceptedControl.offers = rest := by rw [State.acceptedControl, hoffers, withoutPortWord_port]
  refine ⟨b, u, u.withControl c, htakes.bigLoop_eq, fun _ hlt => htakes.bigLoop_eq_none hlt, hb, ?_, hidle,
    sameEffect_withControl u c, hrest.trans htaken, hlen⟩
  rw [Nat.add_assoc, Nat.add_comm 1, core_run_succ _ hstep]
  exact hrun

/-! ### Reset in any state (70_reset_and_hazards.md R202) -/

theorem step_of_rst {s : State} (hw : s.cfg.wf = true) (hr : s.rst = true) : step s = .next (applyReset s) := by
  rw [step_eq hw, if_pos hr]

theorem withoutPortWord_offers {s : State} (h : s.port ≠ none) : withoutPortWord s.offers = s.offers.tail := by
  obtain ⟨cw, hcw⟩ := Option.ne_none_iff_exists'.1 h
  obtain ⟨rest, hoffers⟩ := State.port_eq_some hcw
  rw [hoffers, withoutPortWord_port, List.tail_cons]

/-- Settles O11: the step is the reset, which drops the word on the port of a busy block. -/
theorem resetInAnyStateAbandonsTheFill : Obligations.ResetInAnyStateAbandonsTheFill := by
  intro s hw hr
  refine ⟨applyReset s, step_of_rst hw hr, rfl, rfl, rfl, rfl, rfl, rfl, rfl, rfl, fun hbusy hport => ?_,
    rfl, rfl, rfl, rfl⟩
  rw [State.applyReset_offers, if_pos hbusy, withoutPortWord_offers hport]

end Sys2Proof.Machine
end

section
/-! PROOFS. What is held while the block cannot act on it: an offered word at a busy block (spec 40_fill_command.md R100), and
`MIX` until the host takes the pair (20_memory.md R64). -/

namespace Sys2Proof.Machine

/-! ### The offered words (40_fill_command.md R100) -/

/-- Of the moves of a step only those of an idle block touch the host's words. -/
theorem Move.offers_of_busy {s t : State} (h : Move s t) (hp : s.ph ≠ phIdle) : t.offers = s.offers := by
  cases h with
  | noCommand hidle | fillZero hidle | fill _ hidle => exact absurd hidle hp
  | bset | pairNotTaken | sample | leave | adv => rfl
  | rs0 _ hu => exact hu.offers
  | rs1 _ hu => rw [loopDecision_offers, hu.offers]

theorem execFill_of_busy {s : State} (count : Nat) (hp : s.ph ≠ phIdle) : execFill count s = .next s := by
  rw [execFill, if_neg hp, notSelected]

/-- Whatever its count, the command that `FILL` accepts leaves the port, and no other word does. -/
theorem execFill_takes_word {s : State} (count : Nat) (hp : s.ph = phIdle) :
    ∃ t, execFill count s = .next t ∧ t.offers = withoutPortWord s.offers := by
  refine ⟨_, execFill_eq hp, ?_⟩
  split_ifs <;> rfl

/-- Settles O8: only the moves of an idle block touch the words, `FILL` is not selected at a busy one, and the word on the
port of an idle one is decoded and run. -/
theorem busyBlockHoldsTheOfferedCommand : Obligations.BusyBlockHoldsTheOfferedCommand := by
  refine ⟨fun s t hbusy hr h => ?_, fun s count hbusy => execFill_of_busy count ((State.busy_iff s).1 hbusy),
    fun s cw rest hw hr hp hoffers hop => ?_⟩
  · rcases step_next_cases h with ⟨hr', -⟩ | ⟨-, hm⟩
    · rw [hr] at hr'
      cases hr'
    · exact hm.offers_of_busy ((State.busy_iff s).1 hbusy)
  · have hdec : decode (.cmd cw) = .ok (.fill (countField cw).toNat) := by rw [decode_cmd, if_pos hop]
    have hstep : step s = execFill (countField cw).toNat s :=
      (stepRunsTheDecodedOperation s hw hr).1 cw _ hp (State.port_of_offers hoffers) hdec
    obtain ⟨t, ht, hrest⟩ := execFill_takes_word (countField cw).toNat hp
    exact ⟨t, hstep.trans ht, by rw [hrest, hoffers, withoutPortWord_port]⟩

/-! ### The pair the host has not taken (20_memory.md R64) -/

theorem hostWaits_pairNotTaken_of_waits {s : State} {w : Nat} {ws : List Nat} (h : s.waits = (w + 1) :: ws) :
    hostWaits .pairNotTaken s = { s with waits := w :: ws } := by
  simp [hostWaits, h]

/-- Settles O19: with a delay listed the pair is not taken, and the held `MIX` lowers that delay alone. -/
theorem mixIsHeldUntilThePairIsTaken : Obligations.MixIsHeldUntilThePairIsTaken := by
  intro s w ws hp hj hws
  have hpair : s.pairNotTaken = true := s.pairNotTaken_iff.2 ⟨hp, hj, w, ws, hws⟩
  rw [exec, execMix_held hpair, held, hostWaits_pairNotTaken_of_waits hws]

end Sys2Proof.Machine
end
